-- ==== Sys2Proof/Word.lean ====
section
/-!
DEFINITION. The word types of the TaC CPU: 16-bit words, bytes, 4-bit fields and the two access widths.
-/

namespace Sys2Proof

/-- Every register, address and data value (00_scope.md R5, 10_state.md R20). -/
abbrev Word := BitVec 16

/-- One byte of the memory space or of the I/O space (20_memory.md R50, 10_state.md R33). -/
abbrev Byte := BitVec 8

/-- A 4-bit field of the first word: D4, I4, or the code of a register or condition (30_encoding.md R80). -/
abbrev Nibble := BitVec 4

/-- The width of an access, `width(m)` of 00_scope.md R6: one byte in mode 7, one word elsewhere. -/
inductive Width where
  | byte
  | word
deriving DecidableEq, Repr

end Sys2Proof
end

