-- ==== Sys2Proof/Machine/Bits.lean ====
section
/-!
DEFINITION. Bit fields, byte order, and the extensions of short fields: the helpers every other layer uses.
-/

namespace Sys2Proof.Machine

/-- The byte of a word that lies at the even address: bits 15..8 (20_memory.md R51). -/
def hiByte (w : Word) : Byte := w.extractLsb' 8 8

/-- The byte of a word that lies at the odd address: bits 7..0 (20_memory.md R51). -/
def loByte (w : Word) : Byte := w.extractLsb' 0 8

/-- The word whose even byte is `h` and whose odd byte is `l` (20_memory.md R51, R53). -/
def joinBytes (h l : Byte) : Word := h ++ l

/-- `zext_16` of a byte (00_scope.md R5, 20_memory.md R56). -/
def zextByte (b : Byte) : Word := b.setWidth 16

/-- `sext_16` of a 4-bit immediate I4 (30_encoding.md R86). -/
def sextNibble (n : Nibble) : Word := n.signExtend 16

/-- The byte displacement of a 4-bit word displacement D4: `sext_16(D4) << 1` (30_encoding.md R85). -/
def dispNibble (n : Nibble) : Word := sextNibble n <<< 1

/-- The OP byte of a first word (30_encoding.md R80). -/
def opField (w : Word) : Byte := w.extractLsb' 8 8

/-- OP's upper five bits: the operation, a row of the opcode map (30_encoding.md R80, R93). -/
def rowField (w : Word) : BitVec 5 := w.extractLsb' 11 5

/-- OP's lower three bits: the addressing mode, a column of the opcode map (30_encoding.md R80, R93). -/
def modeField (w : Word) : BitVec 3 := w.extractLsb' 8 3

/-- Bits 7..4 of a first word: Rd, or a jump's condition number (30_encoding.md R80, R84). -/
def rdField (w : Word) : Nibble := w.extractLsb' 4 4

/-- Bits 3..0 of a first word: Rx, Rs, D4 or I4 (30_encoding.md R80). -/
def rxField (w : Word) : Nibble := w.extractLsb' 0 4

/-- A first word from its three fields (30_encoding.md R80). -/
def firstWord (op : Byte) (rd rx : Nibble) : Word := op ++ rd ++ rx

end Sys2Proof.Machine
end

