-- ==== Sys2Proof/Config.lean ====
section
/-!
DEFINITION. What the spec leaves to a parameter or to a draw. A value the spec does not fix is free: the opaque
constants here have no body that Lean could evaluate. A behaviour for which the spec names a default, and does not ask a
model to leave it open, is that default, in one definition here.
-/

namespace Sys2Proof

/-- The four arithmetic flags as one value (10_state.md R26). -/
structure Arith where
  v : Bool
  c : Bool
  s : Bool
  z : Bool
deriving DecidableEq, Repr, Inhabited

/-- What one `draw(name)` of the spec can deliver (00_scope.md R6): an instruction that draws uses the parts that the
spec leaves open for it. -/
structure FreeValues where
  /-- An open word: a saved PC, the value of an IN, a quotient. -/
  word : Word
  /-- Open flags. -/
  flags : Arith
deriving DecidableEq, Repr, Inhabited

/-- The `n`-th draw of a run: nothing is known of it (00_scope.md R6). -/
opaque Config.freeValues : Nat → FreeValues

/-- DIV_SIGNED: whether DIV, MOD, MULL and DIVL read their operands as two's-complement numbers. The spec leaves it
open (42_mul_div.md R140, decision D11). -/
opaque Config.divSigned : Bool

/-- The instructions whose rules test membership in PRIV_SET (60_exceptions.md R231; RETI: 46_system.md R192). -/
inductive PrivInstr where
  | inp
  | out
  | ei
  | di
  | halt
  | reti
deriving DecidableEq, Repr

/-- PRIV_SET at its default: IN, OUT, EI, DI and HALT; RETI is executed in user mode and keeps E and P, the default
of RETI_USER (60_exceptions.md R231, decision D17). -/
def Config.privSet : PrivInstr → Bool
  | .inp => true
  | .out => true
  | .ei => true
  | .di => true
  | .halt => true
  | .reti => false

/-- The kinds of memory access the protection check is told (20_memory.md R62). -/
inductive AccessKind where
  | fetch
  | read
  | write
deriving DecidableEq, Repr

/-- Which memory-protection check the machine has for P = 0, the parameter PROTECT (20_memory.md R62, decision D26). A
model may assume nothing of it, so a state names one of the spec's default or any other. -/
inductive ProtectRule where
  /-- The spec's default: every access must lie in the closed range of the limits. -/
  | closedRange
  /-- A check of which nothing is known, `Config.protectOther n`. -/
  | other (n : Nat)
deriving DecidableEq, Repr

/-- Any checks the source does not rule out: whether an access of so many bytes, `addr` the lowest, violates the limits
`lo` and `hi` when P = 0 (20_memory.md R62). -/
opaque Config.protectOther (rule : Nat) (lo hi addr : Word) (bytes : Nat) (kind : AccessKind) : Bool

/-- INT_PRIORITY at its default: the interrupt numbers in the order of acceptance, lowest vector address first
(60_exceptions.md R213, decision D20). -/
def Config.intPriority : List (Fin 10) := [0, 1, 2, 3, 4, 5, 6, 7, 8, 9]

/-- HALT_WAKE at its default: an accepted interrupt does not end the halted state (46_system.md R196, decision D24). -/
def Config.haltWake : Bool := false

/-- RESET_PC at its default: the first word of the IPL ROM (70_reset_and_hazards.md R260, decision D23). -/
def Config.resetPc : Word := 0xF000

end Sys2Proof
end

