-- ==== Sys2Proof/Machine/State.lean ====
section
/-!
DEFINITION. The state of the machine as plain data, the reasons a step can stop, and the state after reset.
-/

namespace Sys2Proof.Machine

/-- The fifteen registers a register number can reach (10_state.md R20, R22): G0 to G11, FP and the two stack
pointers. PC and FLAG are the PSW, fields of `State`. -/
structure Regs where
  g0 : Word
  g1 : Word
  g2 : Word
  g3 : Word
  g4 : Word
  g5 : Word
  g6 : Word
  g7 : Word
  g8 : Word
  g9 : Word
  g10 : Word
  g11 : Word
  fp : Word
  ssp : Word
  usp : Word
deriving DecidableEq, Repr

/-- The name of one physical register of `Regs`. -/
inductive Phys where
  | g0 | g1 | g2 | g3 | g4 | g5 | g6 | g7 | g8 | g9 | g10 | g11
  | fp | ssp | usp
deriving DecidableEq, Repr

/-- The six defined bits of FLAG (10_state.md R26). The other ten are not state (10_state.md R27). -/
structure Flag where
  /-- Interrupt enable, bit 7. -/
  e : Bool
  /-- Privileged mode, bit 6. -/
  p : Bool
  /-- Overflow, bit 3. -/
  v : Bool
  /-- Carry, after a subtraction borrow, bit 2. -/
  c : Bool
  /-- Sign, bit 1. -/
  s : Bool
  /-- Zero, bit 0. -/
  z : Bool
deriving DecidableEq, Repr

/-- The mode the board was started in, as the mode port reports it (60_exceptions.md R248). The codes 100, 101 and 110
are not listed. -/
inductive BoardMode where
  | teC
  | taC
  | demo1
  | demo2
  | rn4020FactoryReset
deriving DecidableEq, Repr

/-- The device and console registers behind the I/O map (60_exceptions.md R241 to R250, 10_state.md R34). A register
written by OUT holds what was last written; a register read by IN holds what the device last presented. -/
structure Devices where
  timer0Period : Word
  timer0Control : Word
  timer0Current : Word
  timer0Flag : Word
  timer1Period : Word
  timer1Control : Word
  timer1Current : Word
  timer1Flag : Word
  ftdiTx : Byte
  ftdiRx : Byte
  ftdiCtrl : Byte
  ftdiStat : Byte
  tecTx : Byte
  tecRx : Byte
  tecCtrl : Byte
  tecStat : Byte
  usdCtrl : Byte
  usdStat : Byte
  usdMemAddr : Word
  usdBlkAddrH : Word
  usdBlkAddrL : Word
  extOut : Byte
  extIn : Byte
  adcRef : Byte
  extHi : Byte
  mode : BoardMode
  adc0 : Byte
  adc1 : Byte
  adc2 : Byte
  adc3 : Byte
  rnTx : Byte
  rnRx : Byte
  rnCtrl : Byte
  rnStat : Byte
  rnCmd : Byte
  consoleData : Word
  dataSwitches : Word
  addressRegister : Word
  rotarySwitch : Byte
  functionRegister : Byte
deriving DecidableEq, Repr

/-- One OUT as the device model is handed it: `IOWrite(a, n, v)` (60_exceptions.md R240). A byte write carries its
byte in bits 7..0 of `value`. -/
structure IoWrite where
  port : Byte
  width : Width
  value : Word
deriving DecidableEq, Repr

/-- The memory space as (address, byte) pairs in the canonical form `Memory.wf` of Machine/Ops.lean. -/
abbrev Memory := List Host.Cell

/-- Everything the spec gives the machine (10_state.md R20 to R34), and four fields of the model's own. -/
structure State where
  regs : Regs
  pc : Word
  flag : Flag
  /-- HALT has stopped the CPU (10_state.md R34). -/
  halted : Bool
  /-- Bit `k` is `pending[k]`, the request of the source with vector FFE0h + 2k (10_state.md R34). -/
  pending : BitVec 10
  /-- I/O port F4h, the lower-limit address (10_state.md R30). -/
  limitLo : Word
  /-- I/O port F6h, the upper-limit address (10_state.md R30). -/
  limitHi : Word
  dev : Devices
  /-- The history of OUTs, oldest first (60_exceptions.md R240). -/
  outputs : List IoWrite
  mem : Memory
  /-- The MODEL's own: which PROTECT the machine has, an open parameter of the spec (20_memory.md R62). No step changes
  it. -/
  protectRule : ProtectRule
  /-- The MODEL's own: what the interrupt sources request before each coming step, one mask a step
  (60_exceptions.md R212: inputs of the model). -/
  arrivals : List (BitVec 10)
  /-- The MODEL's own: free values supplied for the coming draws; when it is empty a draw is `Config.freeValues`. -/
  free : List FreeValues
  /-- The MODEL's own: how many draws have been made. -/
  draws : Nat
deriving DecidableEq, Repr

/-- The six exceptions (00_scope.md R7, 60_exceptions.md R200). An exception is no fault of the model: it is taken. -/
inductive Exc where
  | invalidAddress
  | addressLimitViolation
  | zeroDivide
  | privilegeViolation
  | undefinedInstruction
  | supervisorCall
deriving DecidableEq, Repr

/-- The machine stops with a fault. -/
inductive Fault where
  /-- Raised by a trap entry (of an exception, of SVC or of an interrupt) whose own pushes are at an odd address or in
  ROM: the spec gives it no meaning and calls the machine stuck (60_exceptions.md R224, decision D22). Safe: the model
  stops where the hardware does something unknown. -/
  | trapEntry
deriving DecidableEq, Repr

/-- The spec gives the situation no meaning, so the model has no successor. Every one is safe: the model stops where
the hardware does something unknown. -/
inductive Refusal where
  /-- Raised by an arm of `exec` whose instruction has no meaning yet. No arm uses it. -/
  | notModelled (mnemonic : String)
  /-- Raised by the step on a word whose pad field is not zero (30_encoding.md R98, decision D15). -/
  | padNonZero
  /-- Raised by the step and by every instruction with register number F in a register field (10_state.md R22,
  decision D14). -/
  | pcOperand
  /-- Raised by the step, MULL and DIVL on an Rd that is odd or above A (30_encoding.md R99, decision D12). -/
  | pairRegister
  /-- Raised by ST, PUSH and CALL on an address in F000h to FFDFh (20_memory.md R54, R59, decision D27). -/
  | romWrite
  /-- Raised by IN and OUT on an I/O address above FFh (20_memory.md R66, decision D25). -/
  | ioAddress
  /-- Raised by a word IN or OUT at an odd port (20_memory.md R66, decision D25). -/
  | ioOddWord
  /-- Raised by a byte OUT to F4h to F7h (60_exceptions.md R249, decision D26). -/
  | limitByteOut
  /-- Raised by DIVL when the quotient does not fit in 16 bits (42_mul_div.md R145, decision D12, U6). -/
  | quotientOverflow
  /-- Raised by the four shifts on a count above 15 (43_shift.md R150 to R154, decision D13, U8). -/
  | shiftCount
deriving DecidableEq, Repr

/-- The outcome of a step or of an instruction. -/
abbrev Outcome := Host.Outcome State Fault Refusal

/-- Device registers after reset. The sheet prints one, RN4020-Cmd = 0001 (10_state.md R35); the others are DESIGN
CHOICE: interrupt enables set, the rest zero. The board is in mode TaC, the one the spec describes (60_exceptions.md
R248). -/
def Devices.reset : Devices where
  timer0Period := 0
  timer0Control := 0x8080
  timer0Current := 0
  timer0Flag := 0
  timer1Period := 0
  timer1Control := 0x8080
  timer1Current := 0
  timer1Flag := 0
  ftdiTx := 0
  ftdiRx := 0
  ftdiCtrl := 0xC0
  ftdiStat := 0
  tecTx := 0
  tecRx := 0
  tecCtrl := 0xC0
  tecStat := 0
  usdCtrl := 0x08
  usdStat := 0
  usdMemAddr := 0
  usdBlkAddrH := 0
  usdBlkAddrL := 0
  extOut := 0
  extIn := 0
  adcRef := 0
  extHi := 0
  mode := .taC
  adc0 := 0
  adc1 := 0
  adc2 := 0
  adc3 := 0
  rnTx := 0
  rnRx := 0
  rnCtrl := 0xC0
  rnStat := 0
  rnCmd := 0x01
  consoleData := 0
  dataSwitches := 0
  addressRegister := 0
  rotarySwitch := 0
  functionRegister := 0

/-- The state after reset (70_reset_and_hazards.md R260): PC = RESET_PC, P = 1, E = 0, not halted, nothing pending.
The registers, V, C, S, Z and the limits are unspecified there; here they hold zero, and `limitHi` FFFFh, limits
that shut out no address under the default check (DESIGN CHOICE, log 25). Nothing is said of the history of OUTs either;
here it begins empty (DESIGN CHOICE, log 46). Which PROTECT the machine has stays open: `.other 0` is a check of which
nothing is known (log 29). -/
def State.reset : State where
  regs := { g0 := 0, g1 := 0, g2 := 0, g3 := 0, g4 := 0, g5 := 0, g6 := 0, g7 := 0, g8 := 0, g9 := 0, g10 := 0,
            g11 := 0, fp := 0, ssp := 0, usp := 0 }
  pc := Config.resetPc
  flag := { e := false, p := true, v := false, c := false, s := false, z := false }
  halted := false
  pending := 0
  limitLo := 0
  limitHi := 0xFFFF
  dev := Devices.reset
  outputs := []
  mem := []
  protectRule := .other 0
  arrivals := []
  free := []
  draws := 0

end Sys2Proof.Machine
end

