-- ==== Sys2Proof/Syntax.lean ====
section
/-!
DEFINITION. The instructions of the TaC CPU as data: the sixteen register numbers, the addressing modes as
operands, and one constructor of `Instr` for each of the 46 mnemonics of the instruction table. A row of
spec/opcode_table.json is a mnemonic together with an addressing mode; the mode is the operand's constructor.
-/

namespace Sys2Proof

/-- The sixteen register numbers of a Rd, Rs or Rx field (10_state.md R21). `pc`, number F, has a name and no
meaning as an operand (10_state.md R22). -/
inductive Reg where
  | g0 | g1 | g2 | g3 | g4 | g5 | g6 | g7 | g8 | g9 | g10 | g11
  | fp | sp | usp | pc
deriving DecidableEq, Repr

/-- The addressing modes that designate a location: 0, 1, 3, 6 and 7 (30_encoding.md R91). -/
inductive Loc where
  /-- Mode 0, Direct. -/
  | direct (dsp : Word)
  /-- Mode 1, Indexed. -/
  | indexed (dsp : Word) (rx : Reg)
  /-- Mode 3, FP relative. -/
  | fpRel (d4 : Nibble)
  /-- Mode 6, Register indirect. -/
  | indirect (rx : Reg)
  /-- Mode 7, Byte register indirect. -/
  | byteIndirect (rx : Reg)
deriving DecidableEq, Repr

/-- The eight addressing modes of a source operand (30_encoding.md R90). -/
inductive Src where
  /-- Modes 0, 1, 3, 6 and 7: the content of a location. -/
  | mem (loc : Loc)
  /-- Mode 2, Immediate. -/
  | imm (value : Word)
  /-- Mode 4, Register. -/
  | reg (rs : Reg)
  /-- Mode 5, 4-bit signed immediate. -/
  | imm4 (i4 : Nibble)
deriving DecidableEq, Repr

/-- The addressing modes of the jumps and of CALL: 0, 1 and 6 (44_jump_call.md R160, R176). -/
inductive Target where
  | direct (dsp : Word)
  | indexed (dsp : Word) (rx : Reg)
  | indirect (rx : Reg)
deriving DecidableEq, Repr

/-- The addressing modes of IN and OUT: 0, 6 and 7 (45_io_stack.md R180). -/
inductive Port where
  | direct (dsp : Word)
  | indirect (rx : Reg)
  | byteIndirect (rx : Reg)
deriving DecidableEq, Repr

/-- The 46 instructions of the instruction table (00_scope.md R2, 30_encoding.md R94). -/
inductive Instr where
  | no
  | ld (rd : Reg) (m : Src)
  | ldFlag (rd : Reg)
  | st (rd : Reg) (m : Loc)
  | add (rd : Reg) (m : Src)
  | sub (rd : Reg) (m : Src)
  | cmp (rd : Reg) (m : Src)
  | and (rd : Reg) (m : Src)
  | or (rd : Reg) (m : Src)
  | xor (rd : Reg) (m : Src)
  | adds (rd : Reg) (m : Src)
  | mul (rd : Reg) (m : Src)
  | div (rd : Reg) (m : Src)
  | mod (rd : Reg) (m : Src)
  | mull (rd : Reg) (m : Src)
  | divl (rd : Reg) (m : Src)
  | shla (rd : Reg) (m : Src)
  | shll (rd : Reg) (m : Src)
  | shra (rd : Reg) (m : Src)
  | shrl (rd : Reg) (m : Src)
  | jz (t : Target)
  | jc (t : Target)
  | jm (t : Target)
  | jo (t : Target)
  | jgt (t : Target)
  | jge (t : Target)
  | jle (t : Target)
  | jlt (t : Target)
  | jnz (t : Target)
  | jnc (t : Target)
  | jnm (t : Target)
  | jno (t : Target)
  | jhi (t : Target)
  | jls (t : Target)
  | jmp (t : Target)
  | call (t : Target)
  | inp (rd : Reg) (p : Port)
  | out (rd : Reg) (p : Port)
  | push (rd : Reg)
  | pop (rd : Reg)
  | ret
  | reti
  | ei
  | di
  | svc
  | halt
deriving DecidableEq, Repr

end Sys2Proof
end

