-- ==== Sys2Proof/Machine/Ops.lean ====
section
/-!
DEFINITION. The named operations over memory and registers, the checks of a memory access, the stack, the draw of a
free value, and the one operation that takes a trap.
-/

namespace Sys2Proof.Machine

/-! ## What a step can come to before it is settled -/

/-- A computation inside an instruction: a value, an exception to be raised, or a refusal (`raise X` and
`refuse(reason)` of 00_scope.md R6). -/
inductive Eff (α : Type) where
  | ok (a : α)
  | raise (e : Exc)
  | refuse (r : Refusal)
deriving DecidableEq, Repr

/-- Go on with the value; an exception or a refusal ends the computation. -/
def Eff.bind (x : Eff α) (f : α → Eff β) : Eff β :=
  match x with
  | .ok a => f a
  | .raise e => .raise e
  | .refuse r => .refuse r

/-! ## Registers -/

/-- The content of a physical register. -/
def Regs.get (r : Regs) : Phys → Word
  | .g0 => r.g0
  | .g1 => r.g1
  | .g2 => r.g2
  | .g3 => r.g3
  | .g4 => r.g4
  | .g5 => r.g5
  | .g6 => r.g6
  | .g7 => r.g7
  | .g8 => r.g8
  | .g9 => r.g9
  | .g10 => r.g10
  | .g11 => r.g11
  | .fp => r.fp
  | .ssp => r.ssp
  | .usp => r.usp

/-- The registers with one of them written. -/
def Regs.set (r : Regs) (p : Phys) (x : Word) : Regs :=
  match p with
  | .g0 => { r with g0 := x }
  | .g1 => { r with g1 := x }
  | .g2 => { r with g2 := x }
  | .g3 => { r with g3 := x }
  | .g4 => { r with g4 := x }
  | .g5 => { r with g5 := x }
  | .g6 => { r with g6 := x }
  | .g7 => { r with g7 := x }
  | .g8 => { r with g8 := x }
  | .g9 => { r with g9 := x }
  | .g10 => { r with g10 := x }
  | .g11 => { r with g11 := x }
  | .fp => { r with fp := x }
  | .ssp => { r with ssp := x }
  | .usp => { r with usp := x }

/-- The stack pointer SP names: SSP when P = 1, USP when P = 0 (10_state.md R22, R23). -/
def spOf (s : State) : Phys := if s.flag.p then .ssp else .usp

/-- The register a register number names (10_state.md R22); number F is refused. -/
def resolve (s : State) : Reg → Eff Phys
  | .g0 => .ok .g0
  | .g1 => .ok .g1
  | .g2 => .ok .g2
  | .g3 => .ok .g3
  | .g4 => .ok .g4
  | .g5 => .ok .g5
  | .g6 => .ok .g6
  | .g7 => .ok .g7
  | .g8 => .ok .g8
  | .g9 => .ok .g9
  | .g10 => .ok .g10
  | .g11 => .ok .g11
  | .fp => .ok .fp
  | .sp => .ok (spOf s)
  | .usp => .ok .usp
  | .pc => .refuse .pcOperand

/-- `x[r]` read (00_scope.md R6, 10_state.md R22). -/
def readReg (s : State) (r : Reg) : Eff Word :=
  (resolve s r).bind fun p => .ok (s.regs.get p)

/-- The registers (Rd, Rd + 1) of MULL and DIVL (30_encoding.md R99, 42_mul_div.md R144). -/
def pairOf : Reg → Eff (Phys × Phys)
  | .g0 => .ok (.g0, .g1)
  | .g2 => .ok (.g2, .g3)
  | .g4 => .ok (.g4, .g5)
  | .g6 => .ok (.g6, .g7)
  | .g8 => .ok (.g8, .g9)
  | .g10 => .ok (.g10, .g11)
  | .pc => .refuse .pcOperand
  | .g1 | .g3 | .g5 | .g7 | .g9 | .g11 | .fp | .sp | .usp => .refuse .pairRegister

/-! ## Updates of one field -/

/-- `x[r] <- v` on the resolved register. -/
def State.setReg (s : State) (p : Phys) (x : Word) : State := { s with regs := s.regs.set p x }

/-- `pc <- target` (00_scope.md R6). -/
def State.goto (s : State) (a : Word) : State := { s with pc := a }

/-- Write V, C, S and Z; E and P stay (10_state.md R29, 41_arith_logic.md R130). -/
def State.setArith (s : State) (f : Arith) : State :=
  { s with flag := { s.flag with v := f.v, c := f.c, s := f.s, z := f.z } }

/-- Write E (46_system.md R193, R194). -/
def State.setE (s : State) (b : Bool) : State := { s with flag := { s.flag with e := b } }

/-- Replace FLAG (46_system.md R192). -/
def State.setFlag (s : State) (f : Flag) : State := { s with flag := f }

/-- Write the halted bit (46_system.md R196). -/
def State.setHalted (s : State) (b : Bool) : State := { s with halted := b }

/-- Replace the memory. -/
def State.setMem (s : State) (m : Memory) : State := { s with mem := m }

/-- `npc`: the address after an instruction of `1 + extra` words (10_state.md R25). -/
def npc (s : State) (extra : Nat) : Word := s.pc + 2 + 2 * BitVec.ofNat 16 extra

/-! ## Free values -/

/-- The free values the next draw of this state delivers (00_scope.md R6). -/
def State.drawn (s : State) : FreeValues :=
  match s.free with
  | v :: _ => v
  | [] => Config.freeValues s.draws

/-- The state after a draw. -/
def State.afterDraw (s : State) : State := { s with free := s.free.tail, draws := s.draws + 1 }

/-! ## Memory -/

/-- What a byte of memory reads as when the memory lists no value for it: DESIGN CHOICE zero, the spec leaving the
contents of RAM, ROM and the vector words after reset unspecified (10_state.md R35). -/
def unlistedByte : Byte := 0

/-- The byte at an address. -/
def Memory.read : Memory → Nat → Byte
  | [], _ => unlistedByte
  | (k, b) :: rest, a => if k = a then b else Memory.read rest a

/-- The memory with the byte at an address written, in canonical form again. -/
def Memory.write : Memory → Nat → Byte → Memory
  | [], a, x => if x = unlistedByte then [] else [(a, x)]
  | (k, b) :: rest, a, x =>
    if a < k then
      if x = unlistedByte then (k, b) :: rest else (a, x) :: (k, b) :: rest
    else if a = k then
      if x = unlistedByte then rest else (a, x) :: rest
    else (k, b) :: Memory.write rest a x

/-- The canonical form from a least address on: addresses strictly rising and below 2^16, no entry equal to what an
unlisted address reads as. -/
def Memory.wfFrom : Memory → Nat → Bool
  | [], _ => true
  | (k, b) :: rest, lo => lo ≤ k && k < 65536 && b != unlistedByte && Memory.wfFrom rest (k + 1)

/-- The canonical form of a memory: equal memories are equal data. -/
def Memory.wf (m : Memory) : Bool := m.wfFrom 0

/-- The word at an even address, big-endian (20_memory.md R51, R53). -/
def loadWord (m : Memory) (a : Word) : Word :=
  joinBytes (m.read a.toNat) (m.read (a + 1).toNat)

/-- The memory with the word at an even address written, big-endian (20_memory.md R51, R54). -/
def storeWord (m : Memory) (a x : Word) : Memory :=
  (m.write a.toNat (hiByte x)).write (a + 1).toNat (loByte x)

/-- The IPL ROM, F000h to FFDFh (20_memory.md R58). -/
def inRom (a : Word) : Bool := 0xF000 ≤ a.toNat && a.toNat ≤ 0xFFDF

/-- Whether an address is odd (20_memory.md R55). -/
def isOdd (a : Word) : Bool := a.getLsbD 0

/-- PROTECT at its default for P = 0: an access of `n` bytes at `addr` violates the limits unless it lies wholly in
the closed range from `lo` to `hi` (20_memory.md R62, decision D26). -/
def outsideRange (lo hi addr : Word) (n : Nat) : Bool :=
  addr.toNat < lo.toNat || hi.toNat < addr.toNat + n - 1

/-- PROTECT for P = 0 under a rule (20_memory.md R62). -/
def protect (r : ProtectRule) (lo hi addr : Word) (n : Nat) (k : AccessKind) : Bool :=
  match r with
  | .closedRange => outsideRange lo hi addr n
  | .other i => Config.protectOther i lo hi addr n k

/-- AddressLimitViolation of an access of `n` bytes: never in privileged mode, the one property of PROTECT a model may
assume; in user mode as the machine's rule says (20_memory.md R62, 60_exceptions.md R202). -/
def limitViolation (s : State) (k : AccessKind) (a : Word) (n : Nat) : Bool :=
  !s.flag.p && protect s.protectRule s.limitLo s.limitHi a n k

/-- The checks before a word access: an odd address first, then the limits (20_memory.md R53, R54). -/
def checkWord (s : State) (k : AccessKind) (a : Word) : Eff Unit :=
  if isOdd a then .raise .invalidAddress
  else if limitViolation s k a 2 then .raise .addressLimitViolation
  else .ok ()

/-- The check before a byte access: the limits only (20_memory.md R53 to R55). -/
def checkByte (s : State) (k : AccessKind) (a : Word) : Eff Unit :=
  if limitViolation s k a 1 then .raise .addressLimitViolation else .ok ()

/-- `MemRead(a, 2)` (20_memory.md R53). -/
def readWord (s : State) (k : AccessKind) (a : Word) : Eff Word :=
  (checkWord s k a).bind fun _ => .ok (loadWord s.mem a)

/-- `MemRead(a, 1)` (20_memory.md R53). -/
def readByte (s : State) (k : AccessKind) (a : Word) : Eff Byte :=
  (checkByte s k a).bind fun _ => .ok (s.mem.read a.toNat)

/-- `MemWrite(a, 2, x)`: the memory after it (20_memory.md R54). -/
def writeWord (s : State) (a x : Word) : Eff Memory :=
  (checkWord s .write a).bind fun _ =>
    if inRom a then .refuse .romWrite else .ok (storeWord s.mem a x)

/-- `MemWrite(a, 1, x)`: the memory after it (20_memory.md R54). -/
def writeByte (s : State) (a : Word) (x : Byte) : Eff Memory :=
  (checkByte s .write a).bind fun _ =>
    if inRom a then .refuse .romWrite else .ok (s.mem.write a.toNat x)

/-! ## The stack -/

/-- `push(v)`: SP is lowered by 2 and the value stored at the new SP; when the store raises, SP keeps its value
(20_memory.md R57). -/
def push (s : State) (x : Word) : Eff State :=
  let a := s.regs.get (spOf s) - 2
  (writeWord s a x).bind fun m => .ok ((s.setReg (spOf s) a).setMem m)

/-- The word on top of the stack, and the state with SP raised by 2: `pop()` (20_memory.md R57). -/
def pop (s : State) : Eff (Word × State) :=
  let a := s.regs.get (spOf s)
  (readWord s .read a).bind fun x => .ok (x, s.setReg (spOf s) (a + 2))

/-! ## FLAG as a word -/

/-- FLAG read as a word, `0000 0000 EP00 VCSZ` (10_state.md R26, R27). -/
def Flag.toWord (f : Flag) : Word :=
  (0 : BitVec 8) ++ BitVec.ofBool f.e ++ BitVec.ofBool f.p ++ (0 : BitVec 2) ++
    BitVec.ofBool f.v ++ BitVec.ofBool f.c ++ BitVec.ofBool f.s ++ BitVec.ofBool f.z

/-- A word loaded into FLAG: the ten reserved bits are dropped (10_state.md R27). -/
def flagOfWord (w : Word) : Flag where
  e := w.getLsbD 7
  p := w.getLsbD 6
  v := w.getLsbD 3
  c := w.getLsbD 2
  s := w.getLsbD 1
  z := w.getLsbD 0

/-! ## Taking a trap -/

/-- The vector address of an exception (00_scope.md R7, 20_memory.md R58). -/
def vectorOf : Exc → Word
  | .invalidAddress => 0xFFF4
  | .addressLimitViolation => 0xFFF6
  | .zeroDivide => 0xFFF8
  | .privilegeViolation => 0xFFFA
  | .undefinedInstruction => 0xFFFC
  | .supervisorCall => 0xFFFE

/-- The memory after a trap entry's two pushes: the saved PC at SSP - 2, the old FLAG at SSP - 4
(60_exceptions.md R220). -/
def trapMemory (s : State) (saved : Word) : Memory :=
  storeWord (storeWord s.mem (s.regs.ssp - 2) saved) (s.regs.ssp - 4) s.flag.toWord

/-- Whether a trap entry cannot make its two pushes: SSP odd, or a pushed word in ROM (60_exceptions.md R224). -/
def trapBlocked (s : State) : Bool :=
  isOdd s.regs.ssp || inRom (s.regs.ssp - 2) || inRom (s.regs.ssp - 4)

/-- The state a trap entry leaves: P = 1, E = 0, V, C, S, Z kept, both words on the system stack, PC from the vector
word (60_exceptions.md R220). The pushes and the vector read are made in privileged mode and meet no limit check. -/
def trapState (s : State) (vector saved : Word) : State :=
  { s with
    regs := s.regs.set .ssp (s.regs.ssp - 4)
    mem := trapMemory s saved
    flag := { s.flag with p := true, e := false }
    pc := loadWord (trapMemory s saved) vector }

/-- `TrapEntry(vector, saved_pc)`, of exceptions and interrupts alike (60_exceptions.md R220, R224). -/
def trapEntry (s : State) (vector saved : Word) : Outcome :=
  if trapBlocked s then .fault .trapEntry else .next (trapState s vector saved)

/-- `raise X` in the state the instruction began in: SVC saves the address after itself, the five faults save a value
that the spec leaves free (60_exceptions.md R221). -/
def raiseExc (s : State) : Exc → Outcome
  | .supervisorCall => trapEntry s (vectorOf .supervisorCall) (npc s 0)
  | .invalidAddress => trapEntry s.afterDraw (vectorOf .invalidAddress) s.drawn.word
  | .addressLimitViolation => trapEntry s.afterDraw (vectorOf .addressLimitViolation) s.drawn.word
  | .zeroDivide => trapEntry s.afterDraw (vectorOf .zeroDivide) s.drawn.word
  | .privilegeViolation => trapEntry s.afterDraw (vectorOf .privilegeViolation) s.drawn.word
  | .undefinedInstruction => trapEntry s.afterDraw (vectorOf .undefinedInstruction) s.drawn.word

/-- The outcome of an instruction begun in `s`: what it computed, or the trap of its exception taken from `s` itself,
so that a faulting instruction has changed nothing (60_exceptions.md R222). -/
def settle (s : State) : Eff State → Outcome
  | .ok t => .next t
  | .raise e => raiseExc s e
  | .refuse r => .refused r

/-- PrivilegeViolation for a member of PRIV_SET executed with P = 0 (60_exceptions.md R204). -/
def forbidden (s : State) (i : PrivInstr) : Bool := !s.flag.p && Config.privSet i

/-- The privilege check an instruction of PRIV_SET makes first (60_exceptions.md R204). -/
def checkPriv (s : State) (i : PrivInstr) : Eff Unit :=
  if forbidden s i then .raise .privilegeViolation else .ok ()

/-- FLAG after a RETI that popped `w`: with P = 1 all six bits are loaded, with P = 0 E and P keep their values
(46_system.md R192, RETI_USER). -/
def flagAfterReti (old : Flag) (w : Word) : Flag :=
  if old.p then flagOfWord w else { flagOfWord w with e := old.e, p := old.p }

/-- The return from a trap (46_system.md R192, 60_exceptions.md R225): FLAG, then PC, from the stack SP names when the
instruction begins. Both words are read before anything is written. -/
def returnFromTrap (s : State) : Eff State :=
  let a := s.regs.get (spOf s)
  (readWord s .read a).bind fun f =>
    (readWord s .read (a + 2)).bind fun t =>
      .ok (((s.setReg (spOf s) (a + 4)).setFlag (flagAfterReti s.flag f)).goto t)

end Sys2Proof.Machine
end

