-- ==== Sys2Proof/Machine/Devices.lean ====
section
/-!
DEFINITION. The I/O space as IN and OUT meet it: which bits of a port read as zero, the device registers behind the I/O
map, the history of OUTs, the protection limits, and the requests of the interrupt sources (60_exceptions.md R210 to
R212, R240 to R252).
-/

namespace Sys2Proof.Machine

/-- The bits of a port byte that an IN can deliver as one: those the I/O map or the bit rows print as zero read as zero
(60_exceptions.md R240, R241, R243, R245, R248, R250). Free and reserved ports deliver anything (R252). -/
def portMask (a : Byte) : Byte :=
  match a.toNat with
  | 0x08 => 0x00
  | 0x0A => 0x00
  | 0x0B => 0xC0
  | 0x0C => 0x00
  | 0x0E => 0x00
  | 0x0F => 0xC0
  | 0x10 => 0x00
  | 0x11 => 0x0C
  | 0x18 => 0x00
  | 0x1A => 0x00
  | 0x1C => 0x00
  | 0x1E => 0x00
  | 0x1F => 0x07
  | 0x20 => 0x00
  | 0x22 => 0x00
  | 0x24 => 0x00
  | 0x26 => 0x00
  | 0x28 => 0x00
  | 0x2A => 0x00
  | 0x2B => 0xC0
  | 0x2C => 0x00
  | 0xFC => 0x00
  | 0xFD => 0x1F
  | 0xFE => 0x00
  | 0xFF => 0x0F
  | _ => 0xFF

/-- The three bits MMM of a board mode (60_exceptions.md R248). -/
def BoardMode.code : BoardMode → Byte
  | .teC => 0
  | .taC => 1
  | .demo1 => 2
  | .demo2 => 3
  | .rn4020FactoryReset => 7

/-- What an input port byte delivers when the oracle presents `raw`: the mode port reports the board's mode
(60_exceptions.md R248), every other port the oracle's byte with the zero bits of the map (60_exceptions.md R240). -/
def portByte (m : BoardMode) (a raw : Byte) : Byte := if a = 0x1F then m.code else raw &&& portMask a

/-- The value of `IORead(a, n)`, an oracle's `raw` port byte by port byte, a byte zero-extended
(60_exceptions.md R240, 45_io_stack.md R181). -/
def inValue (m : BoardMode) (a : Byte) (w : Width) (raw : Word) : Word :=
  match w with
  | .word => joinBytes (portByte m a (hiByte raw)) (portByte m (a + 1) (loByte raw))
  | .byte => zextByte (portByte m a (loByte raw))

/-- The device registers after one of them has presented the byte `x` at port `a` (60_exceptions.md R241). -/
def latchByte (d : Devices) (a x : Byte) : Devices :=
  match a.toNat with
  | 0x00 => { d with timer0Current := joinBytes x (loByte d.timer0Current) }
  | 0x01 => { d with timer0Current := joinBytes (hiByte d.timer0Current) x }
  | 0x02 => { d with timer0Flag := joinBytes x (loByte d.timer0Flag) }
  | 0x03 => { d with timer0Flag := joinBytes (hiByte d.timer0Flag) x }
  | 0x04 => { d with timer1Current := joinBytes x (loByte d.timer1Current) }
  | 0x05 => { d with timer1Current := joinBytes (hiByte d.timer1Current) x }
  | 0x06 => { d with timer1Flag := joinBytes x (loByte d.timer1Flag) }
  | 0x07 => { d with timer1Flag := joinBytes (hiByte d.timer1Flag) x }
  | 0x09 => { d with ftdiRx := x }
  | 0x0B => { d with ftdiStat := x }
  | 0x0D => { d with tecRx := x }
  | 0x0F => { d with tecStat := x }
  | 0x11 => { d with usdStat := x }
  | 0x19 => { d with extIn := x }
  | 0x21 => { d with adc0 := x }
  | 0x23 => { d with adc1 := x }
  | 0x25 => { d with adc2 := x }
  | 0x27 => { d with adc3 := x }
  | 0x29 => { d with rnRx := x }
  | 0x2B => { d with rnStat := x }
  | 0xF8 => { d with dataSwitches := joinBytes x (loByte d.dataSwitches) }
  | 0xF9 => { d with dataSwitches := joinBytes (hiByte d.dataSwitches) x }
  | 0xFA => { d with addressRegister := joinBytes x (loByte d.addressRegister) }
  | 0xFB => { d with addressRegister := joinBytes (hiByte d.addressRegister) x }
  | 0xFD => { d with rotarySwitch := x }
  | 0xFF => { d with functionRegister := x }
  | _ => d

/-- The device registers after an IN has delivered `v` (60_exceptions.md R240, R241). -/
def latchIn (d : Devices) (a : Byte) (w : Width) (v : Word) : Devices :=
  match w with
  | .word => latchByte (latchByte d a (hiByte v)) (a + 1) (loByte v)
  | .byte => latchByte d a (loByte v)

/-- The device registers after the byte `x` has been written to port `a`; a free, reserved or input-only port keeps
nothing (60_exceptions.md R241, R252). -/
def devWriteByte (d : Devices) (a x : Byte) : Devices :=
  match a.toNat with
  | 0x00 => { d with timer0Period := joinBytes x (loByte d.timer0Period) }
  | 0x01 => { d with timer0Period := joinBytes (hiByte d.timer0Period) x }
  | 0x02 => { d with timer0Control := joinBytes x (loByte d.timer0Control) }
  | 0x03 => { d with timer0Control := joinBytes (hiByte d.timer0Control) x }
  | 0x04 => { d with timer1Period := joinBytes x (loByte d.timer1Period) }
  | 0x05 => { d with timer1Period := joinBytes (hiByte d.timer1Period) x }
  | 0x06 => { d with timer1Control := joinBytes x (loByte d.timer1Control) }
  | 0x07 => { d with timer1Control := joinBytes (hiByte d.timer1Control) x }
  | 0x09 => { d with ftdiTx := x }
  | 0x0B => { d with ftdiCtrl := x }
  | 0x0D => { d with tecTx := x }
  | 0x0F => { d with tecCtrl := x }
  | 0x11 => { d with usdCtrl := x }
  | 0x12 => { d with usdMemAddr := joinBytes x (loByte d.usdMemAddr) }
  | 0x13 => { d with usdMemAddr := joinBytes (hiByte d.usdMemAddr) x }
  | 0x14 => { d with usdBlkAddrH := joinBytes x (loByte d.usdBlkAddrH) }
  | 0x15 => { d with usdBlkAddrH := joinBytes (hiByte d.usdBlkAddrH) x }
  | 0x16 => { d with usdBlkAddrL := joinBytes x (loByte d.usdBlkAddrL) }
  | 0x17 => { d with usdBlkAddrL := joinBytes (hiByte d.usdBlkAddrL) x }
  | 0x19 => { d with extOut := x }
  | 0x1B => { d with adcRef := x }
  | 0x1D => { d with extHi := x }
  | 0x29 => { d with rnTx := x }
  | 0x2B => { d with rnCtrl := x }
  | 0x2D => { d with rnCmd := x }
  | 0xF8 => { d with consoleData := joinBytes x (loByte d.consoleData) }
  | 0xF9 => { d with consoleData := joinBytes (hiByte d.consoleData) x }
  | _ => d

/-- The device registers after `IOWrite(a, n, v)` (20_memory.md R66, 45_io_stack.md R182). -/
def devWrite (d : Devices) (a : Byte) (w : Width) (v : Word) : Devices :=
  match w with
  | .word => devWriteByte (devWriteByte d a (hiByte v)) (a + 1) (loByte v)
  | .byte => devWriteByte d a (loByte v)

/-- What an IN delivers in this state: the next free value as the port shows it (60_exceptions.md R240). -/
def ioReadValue (s : State) (a : Byte) (w : Width) : Word := inValue s.dev.mode a w s.drawn.word

/-- The state after the devices have delivered an IN. -/
def ioReadState (s : State) (a : Byte) (w : Width) : State :=
  { s.afterDraw with dev := latchIn s.dev a w (ioReadValue s a w) }

/-- The entry an OUT adds to the history (60_exceptions.md R240). -/
def ioRecord (a : Byte) (w : Width) (v : Word) : IoWrite where
  port := a
  width := w
  value :=
    match w with
    | .word => v
    | .byte => zextByte (loByte v)

/-- `IOWrite(a, n, v)`: a word to F4h or F6h sets a limit, a byte there is refused (60_exceptions.md R249); everything
else goes to the device registers; every write joins the history (60_exceptions.md R240, R252). -/
def ioWrite (s : State) (a : Byte) (w : Width) (v : Word) : Eff State :=
  let t := { s with outputs := s.outputs ++ [ioRecord a w v] }
  if 0xF4 ≤ a.toNat ∧ a.toNat ≤ 0xF7 then
    match w with
    | .byte => .refuse .limitByteOut
    | .word => .ok (if a.toNat < 0xF6 then { t with limitLo := v } else { t with limitHi := v })
  else .ok { t with dev := devWrite s.dev a w v }

/-! ## Interrupt requests -/

/-- Whether a timer control word enables the timer's interrupt. The sheet does not settle whether I is bit 7 or bit 15;
only a word with both clear is certain to disable it (60_exceptions.md R242, U34). -/
def timerEnabled (control : Word) : Bool := control.getLsbD 7 || control.getLsbD 15

/-- Bit `k` is clear when source `k`'s enable bit was last written 0; the ADC has no printed enable
(60_exceptions.md R210, R212). -/
def irqEnables (d : Devices) : BitVec 10 :=
  BitVec.ofBool true ++ BitVec.ofBool (d.usdCtrl.getLsbD 3) ++
    BitVec.ofBool (d.tecCtrl.getLsbD 7) ++ BitVec.ofBool (d.tecCtrl.getLsbD 6) ++
    BitVec.ofBool (d.ftdiCtrl.getLsbD 7) ++ BitVec.ofBool (d.ftdiCtrl.getLsbD 6) ++
    BitVec.ofBool (d.rnCtrl.getLsbD 7) ++ BitVec.ofBool (d.rnCtrl.getLsbD 6) ++
    BitVec.ofBool (timerEnabled d.timer1Control) ++ BitVec.ofBool (timerEnabled d.timer0Control)

/-- The requests that arrive before this step join `pending`; a disabled source does not request
(60_exceptions.md R212). -/
def deliver (s : State) : State :=
  match s.arrivals with
  | [] => s
  | m :: rest => { s with pending := s.pending ||| (m &&& irqEnables s.dev), arrivals := rest }

/-- The interrupt to accept at this boundary: E = 1 and the first pending source in INT_PRIORITY's order; a halted CPU
accepts none unless HALT_WAKE says so (60_exceptions.md R211, R213). -/
def acceptable (s : State) : Option (Fin 10) :=
  if s.flag.e && (!s.halted || Config.haltWake) then
    Config.intPriority.find? fun k => s.pending.getLsbD k.val
  else none

/-- The vector address of interrupt `k`: FFE0h + 2k (60_exceptions.md R210). -/
def irqVector (k : Fin 10) : Word := 0xFFE0 + 2 * BitVec.ofNat 16 k.val

/-- `pending` with bit `k` cleared (60_exceptions.md R212). -/
def clearPending (p : BitVec 10) (k : Fin 10) : BitVec 10 := p &&& ~~~(BitVec.twoPow 10 k.val)

/-- Accept interrupt `k`: its pending bit is cleared and the trap taken, saving the address of the instruction not yet
executed (60_exceptions.md R211, R221). -/
def acceptInterrupt (s : State) (k : Fin 10) : Outcome :=
  trapEntry { s with pending := clearPending s.pending k, halted := false } (irqVector k) s.pc

end Sys2Proof.Machine
end

