-- ==== Sys2Proof/Machine/Flags.lean ====
section
/-!
DEFINITION. Every flag computation: what each group of instructions writes to V, C, S and Z, and the jump conditions
that read them (10_state.md R29, 44_jump_call.md R160). A flag the spec does not fix comes from the free value `f`.
-/

namespace Sys2Proof.Machine

/-- S and Z of a result: its bit 15, and whether it is zero (41_arith_logic.md R130). -/
def signOf (r : Word) : Bool := r.msb

/-- See `signOf`. -/
def zeroOf (r : Word) : Bool := r == 0

/-- V, C, S, Z after ADD (41_arith_logic.md R131): C is the carry out of bit 15, V two's-complement overflow. -/
def addFlags (a b : Word) : Arith where
  v := a.msb == b.msb && (a + b).msb != a.msb
  c := decide (65536 ≤ a.toNat + b.toNat)
  s := signOf (a + b)
  z := zeroOf (a + b)

/-- V, C, S, Z after SUB and CMP (41_arith_logic.md R132, R133): C is the borrow, V two's-complement overflow. -/
def subFlags (a b : Word) : Arith where
  v := a.msb != b.msb && (a - b).msb != a.msb
  c := decide (a.toNat < b.toNat)
  s := signOf (a - b)
  z := zeroOf (a - b)

/-- V, C, S, Z after AND, OR and XOR: S and Z of the result, LOGIC_CV free (41_arith_logic.md R134, U9). -/
def logicFlags (r : Word) (f : Arith) : Arith where
  v := f.v
  c := f.c
  s := signOf r
  z := zeroOf r

/-- V, C, S, Z after ADDS: S and Z of the result, V and C free (41_arith_logic.md R137, U10). -/
def addsFlags (r : Word) (f : Arith) : Arith where
  v := f.v
  c := f.c
  s := signOf r
  z := zeroOf r

/-- V, C, S, Z after MUL, DIV, MOD, MULL and DIVL: all four free (42_mul_div.md R140, U11). -/
def mulDivFlags (f : Arith) : Arith := f

/-- V, C, S, Z after a shift: S and Z of the result, V and C free (43_shift.md R150, U12). -/
def shiftFlags (r : Word) (f : Arith) : Arith where
  v := f.v
  c := f.c
  s := signOf r
  z := zeroOf r

/-! ## Jump conditions (30_encoding.md R105, 44_jump_call.md R161 to R174) -/

def condZ (f : Flag) : Bool := f.z
def condC (f : Flag) : Bool := f.c
def condM (f : Flag) : Bool := f.s
def condO (f : Flag) : Bool := f.v
def condGt (f : Flag) : Bool := !(f.z || (f.s ^^ f.v))
def condGe (f : Flag) : Bool := !(f.s ^^ f.v)
def condLe (f : Flag) : Bool := f.z || (f.s ^^ f.v)
def condLt (f : Flag) : Bool := f.s ^^ f.v
def condNz (f : Flag) : Bool := !f.z
def condNc (f : Flag) : Bool := !f.c
def condNm (f : Flag) : Bool := !f.s
def condNo (f : Flag) : Bool := !f.v
def condHi (f : Flag) : Bool := !(f.z || f.c)
def condLs (f : Flag) : Bool := f.z || f.c

end Sys2Proof.Machine
end

