-- ==== Sys2Proof/WellFormed.lean ====
section
/-!
DEFINITION. Which instructions have a meaning as encodings: no register field names PC (10_state.md R22), and
the register of MULL and DIVL is an even general register below FP (30_encoding.md R99).
-/

namespace Sys2Proof

/-- What makes an instruction term ill-formed. -/
inductive Defect where
  /-- A register field holds number F (10_state.md R22). -/
  | pcOperand
  /-- MULL or DIVL with Rd odd or above A (30_encoding.md R99). -/
  | pairRegister
deriving DecidableEq, Repr

/-- The register fields of a location operand. -/
def Loc.regs : Loc → List Reg
  | .direct _ => []
  | .indexed _ rx => [rx]
  | .fpRel _ => []
  | .indirect rx => [rx]
  | .byteIndirect rx => [rx]

/-- The register fields of a source operand. -/
def Src.regs : Src → List Reg
  | .mem l => l.regs
  | .imm _ => []
  | .reg rs => [rs]
  | .imm4 _ => []

/-- The register fields of a jump target. -/
def Target.regs : Target → List Reg
  | .direct _ => []
  | .indexed _ rx => [rx]
  | .indirect rx => [rx]

/-- The register fields of a port operand. -/
def Port.regs : Port → List Reg
  | .direct _ => []
  | .indirect rx => [rx]
  | .byteIndirect rx => [rx]

/-- The register fields of an instruction (30_encoding.md R84). -/
def Instr.regs : Instr → List Reg
  | .no => []
  | .ld rd m => rd :: m.regs
  | .ldFlag rd => [rd]
  | .st rd m => rd :: m.regs
  | .add rd m => rd :: m.regs
  | .sub rd m => rd :: m.regs
  | .cmp rd m => rd :: m.regs
  | .and rd m => rd :: m.regs
  | .or rd m => rd :: m.regs
  | .xor rd m => rd :: m.regs
  | .adds rd m => rd :: m.regs
  | .mul rd m => rd :: m.regs
  | .div rd m => rd :: m.regs
  | .mod rd m => rd :: m.regs
  | .mull rd m => rd :: m.regs
  | .divl rd m => rd :: m.regs
  | .shla rd m => rd :: m.regs
  | .shll rd m => rd :: m.regs
  | .shra rd m => rd :: m.regs
  | .shrl rd m => rd :: m.regs
  | .jz t => t.regs
  | .jc t => t.regs
  | .jm t => t.regs
  | .jo t => t.regs
  | .jgt t => t.regs
  | .jge t => t.regs
  | .jle t => t.regs
  | .jlt t => t.regs
  | .jnz t => t.regs
  | .jnc t => t.regs
  | .jnm t => t.regs
  | .jno t => t.regs
  | .jhi t => t.regs
  | .jls t => t.regs
  | .jmp t => t.regs
  | .call t => t.regs
  | .inp rd p => rd :: p.regs
  | .out rd p => rd :: p.regs
  | .push rd => [rd]
  | .pop rd => [rd]
  | .ret => []
  | .reti => []
  | .ei => []
  | .di => []
  | .svc => []
  | .halt => []

/-- The registers MULL and DIVL may name: the even numbers 0 to A (30_encoding.md R99). -/
def Reg.startsPair : Reg → Bool
  | .g0 | .g2 | .g4 | .g6 | .g8 | .g10 => true
  | .g1 | .g3 | .g5 | .g7 | .g9 | .g11 | .fp | .sp | .usp | .pc => false

/-- The register that must start a pair, for the two instructions that have one. -/
def Instr.pairReg : Instr → Option Reg
  | .mull rd _ | .divl rd _ => some rd
  | _ => none

/-- The first defect of an instruction, in the order of 30_encoding.md R101; `none` when it is well-formed. -/
def Instr.defect (i : Instr) : Option Defect :=
  if i.regs.contains .pc then some .pcOperand
  else if i.pairReg.any (fun r => !r.startsPair) then some .pairRegister
  else none

/-- An instruction whose encoding the spec gives a meaning. -/
def Instr.wellFormed (i : Instr) : Bool := i.defect.isNone

end Sys2Proof
end

