-- ==== Sys2Proof/Decode.lean ====
section
/-!
DEFINITION. The decoder, total on any words and bytes and rejecting by name (30_encoding.md R93 to R101), and after
it the encoder, written from the same tables. `decode` reads a first and a second word; a one-word instruction
ignores the second.
-/

namespace Sys2Proof

open Sys2Proof.Machine

/-- Why a pair of words is no instruction. -/
inductive Reject where
  /-- A blank cell of the opcode map, or jump condition D (30_encoding.md R96, R97). -/
  | undefined
  /-- A non-zero value in a field the format shows as 0h (30_encoding.md R98). -/
  | padNonZero
  /-- The words name an instruction that is ill-formed (10_state.md R22, 30_encoding.md R99). -/
  | illFormed (d : Defect)
deriving DecidableEq, Repr

/-- Why a list of bytes does not begin with an instruction. -/
inductive BytesReject where
  /-- The bytes end before the instruction does. -/
  | truncated
  /-- The words are rejected. -/
  | words (r : Reject)
deriving DecidableEq, Repr

/-- The register a 4-bit field names (10_state.md R21). -/
def regOf (n : Nibble) : Reg :=
  match n.toNat with
  | 0 => .g0
  | 1 => .g1
  | 2 => .g2
  | 3 => .g3
  | 4 => .g4
  | 5 => .g5
  | 6 => .g6
  | 7 => .g7
  | 8 => .g8
  | 9 => .g9
  | 10 => .g10
  | 11 => .g11
  | 12 => .fp
  | 13 => .sp
  | 14 => .usp
  | _ => .pc

/-- `x` when the pad field is zero, else the rejection of 30_encoding.md R98. -/
def padded (pad : Nibble) (x : Except Reject α) : Except Reject α :=
  if pad = 0 then x else .error .padNonZero

/-- The source operand of mode `m` (30_encoding.md R82, R90); in modes 0 and 2 the Rx field is a pad. -/
def decodeSrc (m : BitVec 3) (rx : Nibble) (w2 : Word) : Except Reject Src :=
  match m.toNat with
  | 0 => padded rx (.ok (.mem (.direct w2)))
  | 1 => .ok (.mem (.indexed w2 (regOf rx)))
  | 2 => padded rx (.ok (.imm w2))
  | 3 => .ok (.mem (.fpRel rx))
  | 4 => .ok (.reg (regOf rx))
  | 5 => .ok (.imm4 rx)
  | 6 => .ok (.mem (.indirect (regOf rx)))
  | _ => .ok (.mem (.byteIndirect (regOf rx)))

/-- The jump target of mode `m`: modes 0, 1 and 6 only (44_jump_call.md R160). -/
def decodeTarget (m : BitVec 3) (rx : Nibble) (w2 : Word) : Except Reject Target :=
  match m.toNat with
  | 0 => padded rx (.ok (.direct w2))
  | 1 => .ok (.indexed w2 (regOf rx))
  | 6 => .ok (.indirect (regOf rx))
  | _ => .error .undefined

/-- The port operand of mode `m`: modes 0, 6 and 7 only (45_io_stack.md R180). -/
def decodePort (m : BitVec 3) (rx : Nibble) (w2 : Word) : Except Reject Port :=
  match m.toNat with
  | 0 => padded rx (.ok (.direct w2))
  | 6 => .ok (.indirect (regOf rx))
  | 7 => .ok (.byteIndirect (regOf rx))
  | _ => .error .undefined

/-- Row 00010 of the opcode map: ST in modes 0, 1, 3, 6 and 7, `LD Rd,FLAG` at 14h (30_encoding.md R93). -/
def decodeStRow (m : BitVec 3) (rd rx : Nibble) (w2 : Word) : Except Reject Instr :=
  match m.toNat with
  | 0 => padded rx (.ok (.st (regOf rd) (.direct w2)))
  | 1 => .ok (.st (regOf rd) (.indexed w2 (regOf rx)))
  | 3 => .ok (.st (regOf rd) (.fpRel rx))
  | 4 => padded rx (.ok (.ldFlag (regOf rd)))
  | 6 => .ok (.st (regOf rd) (.indirect (regOf rx)))
  | 7 => .ok (.st (regOf rd) (.byteIndirect (regOf rx)))
  | _ => .error .undefined

/-- The jump a condition number names; number D names none (30_encoding.md R105, R97). -/
def jumpOf (cond : Nibble) : Option (Target → Instr) :=
  match cond.toNat with
  | 0 => some .jz
  | 1 => some .jc
  | 2 => some .jm
  | 3 => some .jo
  | 4 => some .jgt
  | 5 => some .jge
  | 6 => some .jle
  | 7 => some .jlt
  | 8 => some .jnz
  | 9 => some .jnc
  | 10 => some .jnm
  | 11 => some .jno
  | 12 => some .jhi
  | 14 => some .jls
  | 15 => some .jmp
  | _ => none

/-- Row 10100 of the opcode map. An undefined OP or condition comes before a non-zero pad (30_encoding.md R101). -/
def decodeJump (m : BitVec 3) (cond rx : Nibble) (w2 : Word) : Except Reject Instr :=
  match jumpOf cond with
  | none => .error .undefined
  | some j => (decodeTarget m rx w2).map j

/-- Row 10101 of the opcode map: CALL, whose Rd field is a pad (44_jump_call.md R176). -/
def decodeCall (m : BitVec 3) (rd rx : Nibble) (w2 : Word) : Except Reject Instr :=
  match decodeTarget m rx w2 with
  | .error r => .error r
  | .ok t => padded rd (.ok (.call t))

/-- The rows of formats *8 and *9, by the whole OP byte (30_encoding.md R93, R94). -/
def decodeShort (op : Byte) (rd rx : Nibble) : Except Reject Instr :=
  match op.toNat with
  | 0x00 => padded rd (padded rx (.ok .no))
  | 0xC0 => padded rx (.ok (.push (regOf rd)))
  | 0xC4 => padded rx (.ok (.pop (regOf rd)))
  | 0xD0 => padded rd (padded rx (.ok .ret))
  | 0xD4 => padded rd (padded rx (.ok .reti))
  | 0xE0 => padded rd (padded rx (.ok .ei))
  | 0xE4 => padded rd (padded rx (.ok .di))
  | 0xF0 => padded rd (padded rx (.ok .svc))
  | 0xFF => padded rd (padded rx (.ok .halt))
  | _ => .error .undefined

/-- The opcode map, row by row (30_encoding.md R93), before the checks on register fields. -/
def decodeMap (w1 w2 : Word) : Except Reject Instr :=
  let m := modeField w1
  let rd := rdField w1
  let rx := rxField w1
  let two (c : Reg → Src → Instr) : Except Reject Instr := (decodeSrc m rx w2).map (c (regOf rd))
  match (rowField w1).toNat with
  | 0x01 => two .ld
  | 0x02 => decodeStRow m rd rx w2
  | 0x03 => two .add
  | 0x04 => two .sub
  | 0x05 => two .cmp
  | 0x06 => two .and
  | 0x07 => two .or
  | 0x08 => two .xor
  | 0x09 => two .adds
  | 0x0A => two .mul
  | 0x0B => two .div
  | 0x0C => two .mod
  | 0x0D => two .mull
  | 0x0E => two .divl
  | 0x10 => two .shla
  | 0x11 => two .shll
  | 0x12 => two .shra
  | 0x13 => two .shrl
  | 0x14 => decodeJump m rd rx w2
  | 0x15 => decodeCall m rd rx w2
  | 0x16 => (decodePort m rx w2).map (.inp (regOf rd))
  | 0x17 => (decodePort m rx w2).map (.out (regOf rd))
  | _ => decodeShort (opField w1) rd rx

/-- The decoder: an undefined word first, then a non-zero pad, then an ill-formed register field
(30_encoding.md R101). -/
def decode (w1 w2 : Word) : Except Reject Instr :=
  match decodeMap w1 w2 with
  | .error r => .error r
  | .ok i =>
    match i.defect with
    | none => .ok i
    | some d => .error (.illFormed d)

/-- Words of a source operand's second word: one in modes 0, 1 and 2 (30_encoding.md R81). -/
def Loc.extraWords : Loc → Nat
  | .direct _ => 1
  | .indexed _ _ => 1
  | .fpRel _ => 0
  | .indirect _ => 0
  | .byteIndirect _ => 0

/-- As `Loc.extraWords`, for a source operand. -/
def Src.extraWords : Src → Nat
  | .mem l => l.extraWords
  | .imm _ => 1
  | .reg _ => 0
  | .imm4 _ => 0

/-- As `Loc.extraWords`, for a jump target. -/
def Target.extraWords : Target → Nat
  | .direct _ => 1
  | .indexed _ _ => 1
  | .indirect _ => 0

/-- As `Loc.extraWords`, for a port operand. -/
def Port.extraWords : Port → Nat
  | .direct _ => 1
  | .indirect _ => 0
  | .byteIndirect _ => 0

/-- How many words follow the first word of an instruction: 0 or 1 (30_encoding.md R81). -/
def Instr.extraWords : Instr → Nat
  | .no => 0
  | .ld _ m => m.extraWords
  | .ldFlag _ => 0
  | .st _ m => m.extraWords
  | .add _ m => m.extraWords
  | .sub _ m => m.extraWords
  | .cmp _ m => m.extraWords
  | .and _ m => m.extraWords
  | .or _ m => m.extraWords
  | .xor _ m => m.extraWords
  | .adds _ m => m.extraWords
  | .mul _ m => m.extraWords
  | .div _ m => m.extraWords
  | .mod _ m => m.extraWords
  | .mull _ m => m.extraWords
  | .divl _ m => m.extraWords
  | .shla _ m => m.extraWords
  | .shll _ m => m.extraWords
  | .shra _ m => m.extraWords
  | .shrl _ m => m.extraWords
  | .jz t => t.extraWords
  | .jc t => t.extraWords
  | .jm t => t.extraWords
  | .jo t => t.extraWords
  | .jgt t => t.extraWords
  | .jge t => t.extraWords
  | .jle t => t.extraWords
  | .jlt t => t.extraWords
  | .jnz t => t.extraWords
  | .jnc t => t.extraWords
  | .jnm t => t.extraWords
  | .jno t => t.extraWords
  | .jhi t => t.extraWords
  | .jls t => t.extraWords
  | .jmp t => t.extraWords
  | .call t => t.extraWords
  | .inp _ p => p.extraWords
  | .out _ p => p.extraWords
  | .push _ => 0
  | .pop _ => 0
  | .ret => 0
  | .reti => 0
  | .ei => 0
  | .di => 0
  | .svc => 0
  | .halt => 0

/-- The instruction a list of bytes begins with, and the bytes after it. The length is known from the first word
alone (30_encoding.md R81); a word's even byte comes first (20_memory.md R51). -/
def decodeBytes : List Byte → Except BytesReject (Instr × List Byte)
  | h :: l :: rest =>
    match decode (joinBytes h l) 0 with
    | .error r => .error (.words r)
    | .ok i =>
      match i.extraWords with
      | 0 => .ok (i, rest)
      | _ =>
        match rest with
        | h2 :: l2 :: more =>
          match decode (joinBytes h l) (joinBytes h2 l2) with
          | .error r => .error (.words r)
          | .ok j => .ok (j, more)
        | _ => .error .truncated
  | _ => .error .truncated

/-- The two words of a table word: bits 15..0 and bits 31..16 of `w` cut to `nbits`. -/
def tableWords (nbits w : Nat) : Word × Word :=
  let v := w % 2 ^ nbits
  (BitVec.ofNat 16 v, BitVec.ofNat 16 (v / 2 ^ 16))

/-- The instruction the decoder reads from the bits `w` of an opcode-table row, the words laid out as the memory
holds them. -/
def decodeTableWord (nbits w : Nat) : Option Instr :=
  let ws := tableWords nbits w
  match decodeBytes [hiByte ws.1, loByte ws.1, hiByte ws.2, loByte ws.2] with
  | .ok (i, _) => some i
  | .error _ => none

/-! ## The encoder -/

/-- The 4-bit code of a register (10_state.md R21). -/
def Reg.code : Reg → Nibble
  | .g0 => 0x0
  | .g1 => 0x1
  | .g2 => 0x2
  | .g3 => 0x3
  | .g4 => 0x4
  | .g5 => 0x5
  | .g6 => 0x6
  | .g7 => 0x7
  | .g8 => 0x8
  | .g9 => 0x9
  | .g10 => 0xA
  | .g11 => 0xB
  | .fp => 0xC
  | .sp => 0xD
  | .usp => 0xE
  | .pc => 0xF

/-- The words of an instruction with a location operand: `OP = base + m` (30_encoding.md R82, R83). -/
def encodeLoc (base : Byte) (rd : Nibble) : Loc → List Word
  | .direct dsp => [firstWord base rd 0, dsp]
  | .indexed dsp rx => [firstWord (base + 1) rd rx.code, dsp]
  | .fpRel d4 => [firstWord (base + 3) rd d4]
  | .indirect rx => [firstWord (base + 6) rd rx.code]
  | .byteIndirect rx => [firstWord (base + 7) rd rx.code]

/-- The words of an instruction with a source operand (30_encoding.md R82, R83). -/
def encodeSrc (base : Byte) (rd : Nibble) : Src → List Word
  | .mem l => encodeLoc base rd l
  | .imm v => [firstWord (base + 2) rd 0, v]
  | .reg rs => [firstWord (base + 4) rd rs.code]
  | .imm4 i4 => [firstWord (base + 5) rd i4]

/-- The words of a jump or CALL; the Rd field holds the condition number (30_encoding.md R84, R105). -/
def encodeTarget (base : Byte) (rd : Nibble) : Target → List Word
  | .direct dsp => [firstWord base rd 0, dsp]
  | .indexed dsp rx => [firstWord (base + 1) rd rx.code, dsp]
  | .indirect rx => [firstWord (base + 6) rd rx.code]

/-- The words of IN or OUT (30_encoding.md R82, R83). -/
def encodePort (base : Byte) (rd : Nibble) : Port → List Word
  | .direct dsp => [firstWord base rd 0, dsp]
  | .indirect rx => [firstWord (base + 6) rd rx.code]
  | .byteIndirect rx => [firstWord (base + 7) rd rx.code]

/-- The words of an instruction, first word first (30_encoding.md R94, R105). -/
def encode : Instr → List Word
  | .no => [firstWord 0x00 0 0]
  | .ld rd m => encodeSrc 0x08 rd.code m
  | .ldFlag rd => [firstWord 0x14 rd.code 0]
  | .st rd m => encodeLoc 0x10 rd.code m
  | .add rd m => encodeSrc 0x18 rd.code m
  | .sub rd m => encodeSrc 0x20 rd.code m
  | .cmp rd m => encodeSrc 0x28 rd.code m
  | .and rd m => encodeSrc 0x30 rd.code m
  | .or rd m => encodeSrc 0x38 rd.code m
  | .xor rd m => encodeSrc 0x40 rd.code m
  | .adds rd m => encodeSrc 0x48 rd.code m
  | .mul rd m => encodeSrc 0x50 rd.code m
  | .div rd m => encodeSrc 0x58 rd.code m
  | .mod rd m => encodeSrc 0x60 rd.code m
  | .mull rd m => encodeSrc 0x68 rd.code m
  | .divl rd m => encodeSrc 0x70 rd.code m
  | .shla rd m => encodeSrc 0x80 rd.code m
  | .shll rd m => encodeSrc 0x88 rd.code m
  | .shra rd m => encodeSrc 0x90 rd.code m
  | .shrl rd m => encodeSrc 0x98 rd.code m
  | .jz t => encodeTarget 0xA0 0x0 t
  | .jc t => encodeTarget 0xA0 0x1 t
  | .jm t => encodeTarget 0xA0 0x2 t
  | .jo t => encodeTarget 0xA0 0x3 t
  | .jgt t => encodeTarget 0xA0 0x4 t
  | .jge t => encodeTarget 0xA0 0x5 t
  | .jle t => encodeTarget 0xA0 0x6 t
  | .jlt t => encodeTarget 0xA0 0x7 t
  | .jnz t => encodeTarget 0xA0 0x8 t
  | .jnc t => encodeTarget 0xA0 0x9 t
  | .jnm t => encodeTarget 0xA0 0xA t
  | .jno t => encodeTarget 0xA0 0xB t
  | .jhi t => encodeTarget 0xA0 0xC t
  | .jls t => encodeTarget 0xA0 0xE t
  | .jmp t => encodeTarget 0xA0 0xF t
  | .call t => encodeTarget 0xA8 0 t
  | .inp rd p => encodePort 0xB0 rd.code p
  | .out rd p => encodePort 0xB8 rd.code p
  | .push rd => [firstWord 0xC0 rd.code 0]
  | .pop rd => [firstWord 0xC4 rd.code 0]
  | .ret => [firstWord 0xD0 0 0]
  | .reti => [firstWord 0xD4 0 0]
  | .ei => [firstWord 0xE0 0 0]
  | .di => [firstWord 0xE4 0 0]
  | .svc => [firstWord 0xF0 0 0]
  | .halt => [firstWord 0xFF 0 0]

end Sys2Proof
end

