-- ==== Sys2Proof/Machine/Operands.lean ====
section
/-!
DEFINITION. Every operand form: the effective address of a mode, the value it delivers, and the operands of the
two-operand instructions (30_encoding.md R90 to R92).
-/

namespace Sys2Proof.Machine

/-- `ea(m)` (30_encoding.md R91); sums are modulo 2^16 (20_memory.md R61). -/
def locAddr (s : State) : Loc → Eff Word
  | .direct dsp => .ok dsp
  | .indexed dsp rx => (readReg s rx).bind fun x => .ok (dsp + x)
  | .fpRel d4 => .ok (dispNibble d4 + s.regs.fp)
  | .indirect rx => readReg s rx
  | .byteIndirect rx => readReg s rx

/-- `width(m)` (30_encoding.md R91). -/
def Loc.width : Loc → Width
  | .direct _ => .word
  | .indexed _ _ => .word
  | .fpRel _ => .word
  | .indirect _ => .word
  | .byteIndirect _ => .byte

/-- The content of a location, a byte zero-extended (30_encoding.md R90, 20_memory.md R56). -/
def readLoc (s : State) (l : Loc) : Eff Word :=
  (locAddr s l).bind fun a =>
    match Loc.width l with
    | .word => readWord s .read a
    | .byte => (readByte s .read a).bind fun b => .ok (zextByte b)

/-- The memory after a store of `x` at a location; in mode 7 its low byte is stored (40_no_ld_st.md R123,
20_memory.md R56). -/
def writeLoc (s : State) (l : Loc) (x : Word) : Eff Memory :=
  (locAddr s l).bind fun a =>
    match Loc.width l with
    | .word => writeWord s a x
    | .byte => writeByte s a (loByte x)

/-- `operand(m)` (30_encoding.md R90). -/
def operand (s : State) : Src → Eff Word
  | .mem l => readLoc s l
  | .imm v => .ok v
  | .reg rs => readReg s rs
  | .imm4 i4 => .ok (sextNibble i4)

/-- `ea(m)` of a jump or CALL (44_jump_call.md R160). -/
def targetAddr (s : State) : Target → Eff Word
  | .direct dsp => locAddr s (.direct dsp)
  | .indexed dsp rx => locAddr s (.indexed dsp rx)
  | .indirect rx => locAddr s (.indirect rx)

/-- `ea(m)` of IN or OUT (45_io_stack.md R180). -/
def portEa (s : State) : Port → Eff Word
  | .direct dsp => locAddr s (.direct dsp)
  | .indirect rx => locAddr s (.indirect rx)
  | .byteIndirect rx => locAddr s (.byteIndirect rx)

/-- The width of an IN or OUT: 8 bits in mode 7, 16 bits in modes 0 and 6 (45_io_stack.md R180). -/
def Port.width : Port → Width
  | .direct _ => .word
  | .indirect _ => .word
  | .byteIndirect _ => .byte

/-- The port an effective address selects: its upper byte must be zero, and even for a word access
(20_memory.md R66). -/
def portOf (e : Word) (w : Width) : Eff Byte :=
  if hiByte e ≠ 0 then .refuse .ioAddress
  else if w = .word ∧ isOdd e then .refuse .ioOddWord
  else .ok (loByte e)

/-- The port of an IN or OUT operand (20_memory.md R66, 45_io_stack.md R180). -/
def portAddr (s : State) (p : Port) : Eff Byte :=
  (portEa s p).bind fun e => portOf e (Port.width p)

/-- The operands of a two-operand instruction: the register Rd names, its old value, and the source operand. -/
structure Operands where
  dst : Phys
  a : Word
  b : Word
deriving DecidableEq, Repr

/-- Read both operands, before anything is written (30_encoding.md R92, 41_arith_logic.md R130). Register numbers are
resolved before memory is read, as the decode-time refusals come first (30_encoding.md R101). -/
def operands (s : State) (rd : Reg) (m : Src) : Eff Operands :=
  (resolve s rd).bind fun d =>
    (operand s m).bind fun b => .ok { dst := d, a := s.regs.get d, b := b }

/-- The operands of MULL and DIVL: the low register Rd, the high register Rd + 1, and the source operand. -/
structure PairOperands where
  lo : Phys
  hi : Phys
  a : Word
  aHi : Word
  b : Word
deriving DecidableEq, Repr

/-- Read the operands of MULL or DIVL (42_mul_div.md R140, R144, R145). -/
def pairOperands (s : State) (rd : Reg) (m : Src) : Eff PairOperands :=
  (pairOf rd).bind fun d =>
    (operand s m).bind fun b =>
      .ok { lo := d.1, hi := d.2, a := s.regs.get d.1, aHi := s.regs.get d.2, b := b }

end Sys2Proof.Machine
end

