-- ==== Sys2Proof/Machine/Arith.lean ====
section
/-!
DEFINITION. The meanings of ADD, SUB, CMP, AND, OR, XOR and ADDS (41_arith_logic.md).
-/

namespace Sys2Proof.Machine

/-- The end of a two-operand instruction: the destination gets `r`, FLAG the flags `f`, PC the next address. -/
def finish (s : State) (d : Phys) (r : Word) (f : Arith) (m : Src) : State :=
  ((s.setReg d r).setArith f).goto (npc s m.extraWords)

/-- `ADD Rd,EA` (41_arith_logic.md R131). -/
def execAdd (rd : Reg) (m : Src) (s : State) : Outcome :=
  settle s <| (operands s rd m).bind fun o =>
    .ok (finish s o.dst (o.a + o.b) (addFlags o.a o.b) m)

/-- `SUB Rd,EA` (41_arith_logic.md R132). -/
def execSub (rd : Reg) (m : Src) (s : State) : Outcome :=
  settle s <| (operands s rd m).bind fun o =>
    .ok (finish s o.dst (o.a - o.b) (subFlags o.a o.b) m)

/-- `CMP Rd,EA`: the flags of SUB, no register written (41_arith_logic.md R133). -/
def execCmp (rd : Reg) (m : Src) (s : State) : Outcome :=
  settle s <| (operands s rd m).bind fun o =>
    .ok ((s.setArith (subFlags o.a o.b)).goto (npc s m.extraWords))

/-- `AND Rd,EA`; C and V are drawn (41_arith_logic.md R134, LOGIC_CV). -/
def execAnd (rd : Reg) (m : Src) (s : State) : Outcome :=
  settle s <| (operands s rd m).bind fun o =>
    .ok (finish s.afterDraw o.dst (o.a &&& o.b) (logicFlags (o.a &&& o.b) s.drawn.flags) m)

/-- `OR Rd,EA`; C and V are drawn (41_arith_logic.md R135, LOGIC_CV). -/
def execOr (rd : Reg) (m : Src) (s : State) : Outcome :=
  settle s <| (operands s rd m).bind fun o =>
    .ok (finish s.afterDraw o.dst (o.a ||| o.b) (logicFlags (o.a ||| o.b) s.drawn.flags) m)

/-- `XOR Rd,EA`; C and V are drawn (41_arith_logic.md R136, LOGIC_CV). -/
def execXor (rd : Reg) (m : Src) (s : State) : Outcome :=
  settle s <| (operands s rd m).bind fun o =>
    .ok (finish s.afterDraw o.dst (o.a ^^^ o.b) (logicFlags (o.a ^^^ o.b) s.drawn.flags) m)

/-- The result of ADDS: Rd plus the operand scaled by the size of a word (41_arith_logic.md R137). -/
def addsResult (a b : Word) : Word := a + b <<< 1

/-- `ADDS Rd,EA`; C and V are drawn (41_arith_logic.md R137, ADDS_FLAGS). -/
def execAdds (rd : Reg) (m : Src) (s : State) : Outcome :=
  settle s <| (operands s rd m).bind fun o =>
    .ok (finish s.afterDraw o.dst (addsResult o.a o.b)
      (addsFlags (addsResult o.a o.b) s.drawn.flags) m)

end Sys2Proof.Machine
end

