-- ==== Sys2Proof/Machine/IoStack.lean ====
section
/-!
DEFINITION. The meanings of IN, OUT, PUSH and POP (45_io_stack.md).
-/

namespace Sys2Proof.Machine

/-- `IN Rd,EA` (45_io_stack.md R181). -/
def execInp (rd : Reg) (p : Port) (s : State) : Outcome :=
  settle s <| (checkPriv s .inp).bind fun _ =>
    (resolve s rd).bind fun d =>
      (portAddr s p).bind fun a =>
        .ok (((ioReadState s a (Port.width p)).setReg d (ioReadValue s a (Port.width p))).goto
          (npc s p.extraWords))

/-- `OUT Rd,EA` (45_io_stack.md R182). -/
def execOut (rd : Reg) (p : Port) (s : State) : Outcome :=
  settle s <| (checkPriv s .out).bind fun _ =>
    (readReg s rd).bind fun v =>
      (portAddr s p).bind fun a =>
        (ioWrite s a (Port.width p) v).bind fun t => .ok (t.goto (npc s p.extraWords))

/-- `PUSH Rd`: the value is read before SP changes (45_io_stack.md R183). -/
def execPush (rd : Reg) (s : State) : Outcome :=
  settle s <| (readReg s rd).bind fun v =>
    (push s v).bind fun t => .ok (t.goto (npc s 0))

/-- `POP Rd`: Rd is written after SP (45_io_stack.md R184). -/
def execPop (rd : Reg) (s : State) : Outcome :=
  settle s <| (resolve s rd).bind fun d =>
    (pop s).bind fun r => .ok ((r.2.setReg d r.1).goto (npc s 0))

end Sys2Proof.Machine
end

