-- ==== Sys2Proof/Machine/Jump.lean ====
section
/-!
DEFINITION. The meanings of the fifteen jumps and of CALL (44_jump_call.md).
-/

namespace Sys2Proof.Machine

/-- A jump: to its effective address when taken, else to the next instruction. The target is not checked and FLAG is
not changed (44_jump_call.md R160). -/
def jumpWhen (taken : Bool) (t : Target) (s : State) : Outcome :=
  settle s <| (targetAddr s t).bind fun a =>
    .ok (s.goto (if taken then a else npc s t.extraWords))

/-- `JZ EA`: jumps when Z (44_jump_call.md R161). -/
def execJz (t : Target) (s : State) : Outcome := jumpWhen (condZ s.flag) t s

/-- `JC EA`: jumps when C (44_jump_call.md R162). -/
def execJc (t : Target) (s : State) : Outcome := jumpWhen (condC s.flag) t s

/-- `JM EA`: jumps when S (44_jump_call.md R163). -/
def execJm (t : Target) (s : State) : Outcome := jumpWhen (condM s.flag) t s

/-- `JO EA`: jumps when V (44_jump_call.md R164). -/
def execJo (t : Target) (s : State) : Outcome := jumpWhen (condO s.flag) t s

/-- `JGT EA`: jumps when not (Z or (S xor V)) (44_jump_call.md R165). -/
def execJgt (t : Target) (s : State) : Outcome := jumpWhen (condGt s.flag) t s

/-- `JGE EA`: jumps when not (S xor V) (44_jump_call.md R166). -/
def execJge (t : Target) (s : State) : Outcome := jumpWhen (condGe s.flag) t s

/-- `JLE EA`: jumps when Z or (S xor V) (44_jump_call.md R167). -/
def execJle (t : Target) (s : State) : Outcome := jumpWhen (condLe s.flag) t s

/-- `JLT EA`: jumps when S xor V (44_jump_call.md R168). -/
def execJlt (t : Target) (s : State) : Outcome := jumpWhen (condLt s.flag) t s

/-- `JNZ EA`: jumps when not Z (44_jump_call.md R169). -/
def execJnz (t : Target) (s : State) : Outcome := jumpWhen (condNz s.flag) t s

/-- `JNC EA`: jumps when not C (44_jump_call.md R170). -/
def execJnc (t : Target) (s : State) : Outcome := jumpWhen (condNc s.flag) t s

/-- `JNM EA`: jumps when not S (44_jump_call.md R171). -/
def execJnm (t : Target) (s : State) : Outcome := jumpWhen (condNm s.flag) t s

/-- `JNO EA`: jumps when not V (44_jump_call.md R172). -/
def execJno (t : Target) (s : State) : Outcome := jumpWhen (condNo s.flag) t s

/-- `JHI EA`: jumps when not (Z or C) (44_jump_call.md R173). -/
def execJhi (t : Target) (s : State) : Outcome := jumpWhen (condHi s.flag) t s

/-- `JLS EA`: jumps when Z or C (44_jump_call.md R174). -/
def execJls (t : Target) (s : State) : Outcome := jumpWhen (condLs s.flag) t s

/-- `JMP EA`: always jumps (44_jump_call.md R175). -/
def execJmp (t : Target) (s : State) : Outcome := jumpWhen true t s

/-- `CALL EA`: the target is computed before the push of the next address (44_jump_call.md R176). -/
def execCall (t : Target) (s : State) : Outcome :=
  settle s <| (targetAddr s t).bind fun a =>
    (push s (npc s t.extraWords)).bind fun u => .ok (u.goto a)

end Sys2Proof.Machine
end

