-- ==== Sys2Proof/Machine/Move.lean ====
section
/-!
DEFINITION. The meanings of NO, LD, LD Rd,FLAG and ST (40_no_ld_st.md).
-/

namespace Sys2Proof.Machine

/-- `NO` (40_no_ld_st.md R120). -/
def execNo (s : State) : Outcome := settle s (.ok (s.goto (npc s 0)))

/-- `LD Rd,EA` (40_no_ld_st.md R121). -/
def execLd (rd : Reg) (m : Src) (s : State) : Outcome :=
  settle s <| (resolve s rd).bind fun d =>
    (operand s m).bind fun v => .ok ((s.setReg d v).goto (npc s m.extraWords))

/-- `LD Rd,FLAG` (40_no_ld_st.md R122). -/
def execLdFlag (rd : Reg) (s : State) : Outcome :=
  settle s <| (resolve s rd).bind fun d => .ok ((s.setReg d s.flag.toWord).goto (npc s 0))

/-- `ST Rd,EA` (40_no_ld_st.md R123). -/
def execSt (rd : Reg) (m : Loc) (s : State) : Outcome :=
  settle s <| (readReg s rd).bind fun v =>
    (writeLoc s m v).bind fun mem => .ok ((s.setMem mem).goto (npc s m.extraWords))

end Sys2Proof.Machine
end

