-- ==== Sys2Proof/Machine/MulDiv.lean ====
section
/-!
DEFINITION. The meanings of MUL, DIV, MOD, MULL and DIVL (42_mul_div.md). Signedness is the open parameter
`Config.divSigned`; V, C, S and Z are drawn.
-/

namespace Sys2Proof.Machine

/-- Choose between the unsigned and the signed reading of an operation. When both operands are non-negative the two
readings agree and the parameter is not asked; see `quotient_eq` and its companions in Laws/Compute.lean. -/
def bySign (agree : Bool) (unsignedValue signedValue : α) : α :=
  if agree then unsignedValue else if Config.divSigned then signedValue else unsignedValue

/-- Both words are non-negative as two's-complement numbers. -/
def nonNegative (a b : Word) : Bool := !a.msb && !b.msb

/-- DIV with unsigned operands (42_mul_div.md R142). -/
def unsignedQuotient (a b : Word) : Word := BitVec.ofNat 16 (a.toNat / b.toNat)

/-- DIV with signed operands, rounded toward zero; -32768 / -1 does not fit and is the free word `f`
(42_mul_div.md R142, U7). -/
def signedQuotient (a b f : Word) : Word :=
  if a = 0x8000 ∧ b = 0xFFFF then f else BitVec.ofInt 16 (a.toInt.tdiv b.toInt)

/-- DIV's quotient (42_mul_div.md R142). -/
def quotient (a b f : Word) : Word :=
  bySign (nonNegative a b) (unsignedQuotient a b) (signedQuotient a b f)

/-- MOD with unsigned operands (42_mul_div.md R143). -/
def unsignedRemainder (a b : Word) : Word := BitVec.ofNat 16 (a.toNat % b.toNat)

/-- MOD with signed operands, the sign of the dividend (42_mul_div.md R143). -/
def signedRemainder (a b : Word) : Word := BitVec.ofInt 16 (a.toInt.tmod b.toInt)

/-- MOD's remainder (42_mul_div.md R143). -/
def remainder (a b : Word) : Word :=
  bySign (nonNegative a b) (unsignedRemainder a b) (signedRemainder a b)

/-- The 32-bit product of unsigned operands (42_mul_div.md R144). -/
def unsignedProduct (a b : Word) : BitVec 32 := BitVec.ofNat 32 (a.toNat * b.toNat)

/-- The 32-bit product of signed operands (42_mul_div.md R144). -/
def signedProduct (a b : Word) : BitVec 32 := BitVec.ofInt 32 (a.toInt * b.toInt)

/-- MULL's product (42_mul_div.md R144). -/
def product (a b : Word) : BitVec 32 :=
  bySign (nonNegative a b) (unsignedProduct a b) (signedProduct a b)

/-- What DIVL leaves in (Rd, Rd + 1): quotient and remainder. -/
structure LongResult where
  quot : Word
  rem : Word
deriving DecidableEq, Repr

/-- The 32-bit dividend of DIVL: high word in Rd + 1 (42_mul_div.md R145). -/
def dividend (hi lo : Word) : BitVec 32 := hi ++ lo

/-- DIVL with unsigned operands; nothing when the quotient does not fit in 16 bits (42_mul_div.md R145, U6). -/
def unsignedLong (n : BitVec 32) (b : Word) : Option LongResult :=
  if n.toNat / b.toNat < 65536 then
    some { quot := BitVec.ofNat 16 (n.toNat / b.toNat), rem := BitVec.ofNat 16 (n.toNat % b.toNat) }
  else none

/-- DIVL with signed operands, rounded toward zero; nothing when the quotient is outside -32768 to 32767
(42_mul_div.md R145, U6). -/
def signedLong (n : BitVec 32) (b : Word) : Option LongResult :=
  if -32768 ≤ n.toInt.tdiv b.toInt ∧ n.toInt.tdiv b.toInt ≤ 32767 then
    some { quot := BitVec.ofInt 16 (n.toInt.tdiv b.toInt), rem := BitVec.ofInt 16 (n.toInt.tmod b.toInt) }
  else none

/-- DIVL's two results, if the quotient fits (42_mul_div.md R145). The readings agree when both operands are
non-negative and the quotient is below 32768, or above 65535. -/
def longDivide (n : BitVec 32) (b : Word) : Option LongResult :=
  bySign (!n.msb && !b.msb && (decide (n.toNat / b.toNat < 32768) || decide (65536 ≤ n.toNat / b.toNat)))
    (unsignedLong n b) (signedLong n b)

/-- `MUL Rd,EA`: the low word of the product (42_mul_div.md R141). -/
def execMul (rd : Reg) (m : Src) (s : State) : Outcome :=
  settle s <| (operands s rd m).bind fun o =>
    .ok (finish s.afterDraw o.dst (o.a * o.b) (mulDivFlags s.drawn.flags) m)

/-- `DIV Rd,EA`; a zero divisor raises ZeroDivide (42_mul_div.md R142). -/
def execDiv (rd : Reg) (m : Src) (s : State) : Outcome :=
  settle s <| (operands s rd m).bind fun o =>
    if o.b = 0 then .raise .zeroDivide
    else .ok (finish s.afterDraw o.dst (quotient o.a o.b s.drawn.word) (mulDivFlags s.drawn.flags) m)

/-- `MOD Rd,EA`; a zero divisor raises ZeroDivide (42_mul_div.md R143). -/
def execMod (rd : Reg) (m : Src) (s : State) : Outcome :=
  settle s <| (operands s rd m).bind fun o =>
    if o.b = 0 then .raise .zeroDivide
    else .ok (finish s.afterDraw o.dst (remainder o.a o.b) (mulDivFlags s.drawn.flags) m)

/-- The end of MULL and DIVL: Rd, then Rd + 1, then the flags. -/
def finishPair (s : State) (o : PairOperands) (lo hi : Word) (f : Arith) (m : Src) : State :=
  (((s.setReg o.lo lo).setReg o.hi hi).setArith f).goto (npc s m.extraWords)

/-- `MULL Rd,EA`: low word to Rd, high word to Rd + 1 (42_mul_div.md R144). -/
def execMull (rd : Reg) (m : Src) (s : State) : Outcome :=
  settle s <| (pairOperands s rd m).bind fun o =>
    .ok (finishPair s.afterDraw o ((product o.a o.b).extractLsb' 0 16)
      ((product o.a o.b).extractLsb' 16 16) (mulDivFlags s.drawn.flags) m)

/-- `DIVL Rd,EA`: quotient to Rd, remainder to Rd + 1; a zero divisor raises ZeroDivide, a quotient of more than 16
bits is refused (42_mul_div.md R145). -/
def execDivl (rd : Reg) (m : Src) (s : State) : Outcome :=
  settle s <| (pairOperands s rd m).bind fun o =>
    if o.b = 0 then .raise .zeroDivide
    else
      match longDivide (dividend o.aHi o.a) o.b with
      | none => .refuse .quotientOverflow
      | some r => .ok (finishPair s.afterDraw o r.quot r.rem (mulDivFlags s.drawn.flags) m)

end Sys2Proof.Machine
end

