-- ==== Sys2Proof/Machine/Shift.lean ====
section
/-!
DEFINITION. The meanings of SHLA, SHLL, SHRA and SHRL (43_shift.md). A count above 15 is refused; S and Z are those of
the result, V and C are drawn.
-/

namespace Sys2Proof.Machine

/-- The end of a shift: a count above 15 is refused (43_shift.md R150, SHIFT_COUNT, U8), else Rd gets the shifted value
and FLAG its flags. -/
def finishShift (s : State) (o : Operands) (shifted : Word) (m : Src) : Eff State :=
  if 15 < o.b.toNat then .refuse .shiftCount
  else .ok (finish s.afterDraw o.dst shifted (shiftFlags shifted s.drawn.flags) m)

/-- `SHLA Rd,EA`: `u(a) · 2^n` modulo 2^16, zeros entering at bit 0 (43_shift.md R151). -/
def execShla (rd : Reg) (m : Src) (s : State) : Outcome :=
  settle s <| (operands s rd m).bind fun o => finishShift s o (o.a <<< o.b.toNat) m

/-- `SHLL Rd,EA`: `u(a) · 2^n` modulo 2^16, zeros entering at bit 0 (43_shift.md R152). -/
def execShll (rd : Reg) (m : Src) (s : State) : Outcome :=
  settle s <| (operands s rd m).bind fun o => finishShift s o (o.a <<< o.b.toNat) m

/-- `SHRA Rd,EA`: copies of bit 15 enter at bit 15 (43_shift.md R153). -/
def execShra (rd : Reg) (m : Src) (s : State) : Outcome :=
  settle s <| (operands s rd m).bind fun o => finishShift s o (o.a.sshiftRight o.b.toNat) m

/-- `SHRL Rd,EA`: zeros enter at bit 15 (43_shift.md R154). -/
def execShrl (rd : Reg) (m : Src) (s : State) : Outcome :=
  settle s <| (operands s rd m).bind fun o => finishShift s o (o.a >>> o.b.toNat) m

end Sys2Proof.Machine
end

