-- ==== Sys2Proof/Machine/System.lean ====
section
/-!
DEFINITION. The meanings of RET, RETI, EI, DI, SVC and HALT (46_system.md).
-/

namespace Sys2Proof.Machine

/-- `RET` (46_system.md R191). -/
def execRet (s : State) : Outcome :=
  settle s <| (pop s).bind fun r => .ok (r.2.goto r.1)

/-- `RETI` (46_system.md R192). It is no member of the default PRIV_SET. -/
def execReti (s : State) : Outcome :=
  settle s <| (checkPriv s .reti).bind fun _ => returnFromTrap s

/-- `EI` (46_system.md R193). -/
def execEi (s : State) : Outcome :=
  settle s <| (checkPriv s .ei).bind fun _ => .ok ((s.setE true).goto (npc s 0))

/-- `DI` (46_system.md R194). -/
def execDi (s : State) : Outcome :=
  settle s <| (checkPriv s .di).bind fun _ => .ok ((s.setE false).goto (npc s 0))

/-- `SVC`: the trap of SupervisorCall (46_system.md R195, 60_exceptions.md R206). -/
def execSvc (s : State) : Outcome := raiseExc s .supervisorCall

/-- `HALT` (46_system.md R196). -/
def execHalt (s : State) : Outcome :=
  settle s <| (checkPriv s .halt).bind fun _ => .ok ((s.setHalted true).goto (npc s 0))

end Sys2Proof.Machine
end

