-- ==== Sys2Proof/Machine/Dispatch.lean ====
section
/-!
DEFINITION. The dispatch: one arm for each instruction, one direct call of its meaning.
-/

namespace Sys2Proof.Machine

def exec (i : Instr) (s : State) : Host.Outcome State Fault Refusal :=
  match i with
  | .no => Sys2Proof.Machine.execNo s
  | .ld rd m => Sys2Proof.Machine.execLd rd m s
  | .ldFlag rd => Sys2Proof.Machine.execLdFlag rd s
  | .st rd m => Sys2Proof.Machine.execSt rd m s
  | .add rd m => Sys2Proof.Machine.execAdd rd m s
  | .sub rd m => Sys2Proof.Machine.execSub rd m s
  | .cmp rd m => Sys2Proof.Machine.execCmp rd m s
  | .and rd m => Sys2Proof.Machine.execAnd rd m s
  | .or rd m => Sys2Proof.Machine.execOr rd m s
  | .xor rd m => Sys2Proof.Machine.execXor rd m s
  | .adds rd m => Sys2Proof.Machine.execAdds rd m s
  | .mul rd m => Sys2Proof.Machine.execMul rd m s
  | .div rd m => Sys2Proof.Machine.execDiv rd m s
  | .mod rd m => Sys2Proof.Machine.execMod rd m s
  | .mull rd m => Sys2Proof.Machine.execMull rd m s
  | .divl rd m => Sys2Proof.Machine.execDivl rd m s
  | .shla rd m => Sys2Proof.Machine.execShla rd m s
  | .shll rd m => Sys2Proof.Machine.execShll rd m s
  | .shra rd m => Sys2Proof.Machine.execShra rd m s
  | .shrl rd m => Sys2Proof.Machine.execShrl rd m s
  | .jz t => Sys2Proof.Machine.execJz t s
  | .jc t => Sys2Proof.Machine.execJc t s
  | .jm t => Sys2Proof.Machine.execJm t s
  | .jo t => Sys2Proof.Machine.execJo t s
  | .jgt t => Sys2Proof.Machine.execJgt t s
  | .jge t => Sys2Proof.Machine.execJge t s
  | .jle t => Sys2Proof.Machine.execJle t s
  | .jlt t => Sys2Proof.Machine.execJlt t s
  | .jnz t => Sys2Proof.Machine.execJnz t s
  | .jnc t => Sys2Proof.Machine.execJnc t s
  | .jnm t => Sys2Proof.Machine.execJnm t s
  | .jno t => Sys2Proof.Machine.execJno t s
  | .jhi t => Sys2Proof.Machine.execJhi t s
  | .jls t => Sys2Proof.Machine.execJls t s
  | .jmp t => Sys2Proof.Machine.execJmp t s
  | .call t => Sys2Proof.Machine.execCall t s
  | .inp rd p => Sys2Proof.Machine.execInp rd p s
  | .out rd p => Sys2Proof.Machine.execOut rd p s
  | .push rd => Sys2Proof.Machine.execPush rd s
  | .pop rd => Sys2Proof.Machine.execPop rd s
  | .ret => Sys2Proof.Machine.execRet s
  | .reti => Sys2Proof.Machine.execReti s
  | .ei => Sys2Proof.Machine.execEi s
  | .di => Sys2Proof.Machine.execDi s
  | .svc => Sys2Proof.Machine.execSvc s
  | .halt => Sys2Proof.Machine.execHalt s

end Sys2Proof.Machine
end

