-- ==== Sys2Proof/Machine/Cycle.lean ====
section
/-!
DEFINITION. One cycle of the machine: interrupt recognition at the boundary, instruction fetch, the decode-time checks
in their order, and the execution of the decoded instruction.
-/

namespace Sys2Proof.Machine

/-- The PRIV_SET candidate an OP byte names, if any: the privilege check comes before the register fields are looked at and
before the second word is fetched (30_encoding.md R101, 60_exceptions.md R204). -/
def privOf (w1 : Word) : Option PrivInstr :=
  match (opField w1).toNat with
  | 0xB0 | 0xB6 | 0xB7 => some .inp
  | 0xB8 | 0xBE | 0xBF => some .out
  | 0xE0 => some .ei
  | 0xE4 => some .di
  | 0xFF => some .halt
  | 0xD4 => some .reti
  | _ => none

/-- Whether the first word `w1` may not be executed in this mode (60_exceptions.md R204). -/
def wordForbidden (s : State) (w1 : Word) : Bool :=
  match privOf w1 with
  | none => false
  | some i => forbidden s i

/-- The refusal of an ill-formed instruction (10_state.md R22, 30_encoding.md R99). -/
def defectRefusal : Defect → Refusal
  | .pcOperand => .pcOperand
  | .pairRegister => .pairRegister

/-- What a rejected word comes to (30_encoding.md R96 to R99). -/
def rejected (s : State) : Reject → Outcome
  | .undefined => raiseExc s .undefinedInstruction
  | .padNonZero => .refused .padNonZero
  | .illFormed d => .refused (defectRefusal d)

/-- Fetch the second word of an instruction whose first word is `w1`, and execute it (30_encoding.md R92, R101). -/
def executeLong (s : State) (w1 : Word) : Outcome :=
  match readWord s .fetch (s.pc + 2) with
  | .raise e => raiseExc s e
  | .refuse r => .refused r
  | .ok w2 =>
    match decode w1 w2 with
    | .error r => rejected s r
    | .ok i => exec i s

/-- Decode and execute the instruction whose first word is `w1`: undefined, then non-zero pad, then privilege, then the
register fields, then the fetch of the second word (30_encoding.md R101, 60_exceptions.md R204, decision D21; log 22). -/
def executeWord (s : State) (w1 : Word) : Outcome :=
  match decode w1 0 with
  | .error .undefined => rejected s .undefined
  | .error .padNonZero => rejected s .padNonZero
  | .error (.illFormed d) =>
    if wordForbidden s w1 then raiseExc s .privilegeViolation
    else rejected s (.illFormed d)
  | .ok i =>
    if wordForbidden s w1 then raiseExc s .privilegeViolation
    else
      match i.extraWords with
      | 0 => exec i s
      | _ => executeLong s w1

/-- Fetch the first word and execute it (30_encoding.md R92). -/
def fetchExecute (s : State) : Outcome :=
  match readWord s .fetch s.pc with
  | .raise e => raiseExc s e
  | .refuse r => .refused r
  | .ok w1 => executeWord s w1

/-- One step: accept a pending interrupt, or do nothing when halted, or execute the instruction at PC
(60_exceptions.md R211, 46_system.md R196). -/
def boundary (s : State) : Outcome :=
  match acceptable s with
  | some k => acceptInterrupt s k
  | none => if s.halted then .next s else fetchExecute s

/-- The requests that arrive join `pending` before the boundary is looked at (60_exceptions.md R211, R212). -/
def cycle (s : State) : Outcome := boundary (deliver s)

/-- Place the two words of a table word at PC and clear what would keep the next step from fetching them. -/
def loadAtPc (s : State) (nbits w : Nat) : State :=
  let ws := tableWords nbits w
  { s with
    mem := storeWord (storeWord s.mem s.pc ws.1) (s.pc + 2) ws.2
    halted := false
    pending := 0
    arrivals := [] }

end Sys2Proof.Machine
end

