-- ==== Sys2Proof/Machine/Step.lean ====
section
/-!
DEFINITION. The step of the machine, and the placing of an instruction where the next step fetches.
-/

namespace Sys2Proof.Machine

/-- One step of the machine; see `cycle`. -/
def step (s : State) : Host.Outcome State Fault Refusal := cycle s

/-- `s` with the instruction whose bits are `w` stored at PC, the CPU not halted and no interrupt requested, so that the
next step fetches and runs it when PC is even and, in user mode, inside the limits. It stands for the loading of a program
from outside, ROM included (70_reset_and_hazards.md R263). -/
def State.withFetchWord (s : State) (nbits w : Nat) : State := loadAtPc s nbits w

end Sys2Proof.Machine
end

