-- ==== Sys2Proof/Safety.lean ====
section
/-!
DEFINITION. The terms claims use: the invariant of the state, what an instruction may change (its registers, its bytes),
what a program cannot reach from user mode, and a step that executes an instruction.
-/

namespace Sys2Proof.Machine

/-- The invariant of every reachable state: memory keeps its canonical form. -/
def State.Inv (s : State) : Prop := s.mem.wf = true

/-- A step from `s` executes the instruction at PC: the CPU is not halted and no interrupt is accepted
(60_exceptions.md R211). -/
def State.executes (s : State) : Prop := s.halted = false ∧ acceptable (deliver s) = none

/-- The register an access names, if it names one. -/
def namedReg : Eff Phys → List Phys
  | .ok d => [d]
  | _ => []

/-- The two registers of a pair, if there is one. -/
def namedPair : Eff (Phys × Phys) → List Phys
  | .ok d => [d.1, d.2]
  | _ => []

/-- The registers whose content is the same in `t` as in `s`: all but those listed. -/
def State.sameRegsBut (s t : State) (ds : List Phys) : Prop :=
  ∀ p, p ∉ ds → t.regs.get p = s.regs.get p

/-- Every byte of memory reads the same. -/
def State.sameMemory (s t : State) : Prop := ∀ n, t.mem.read n = s.mem.read n

/-- V, C, S and Z are the same. -/
def State.sameArith (s t : State) : Prop :=
  t.flag.v = s.flag.v ∧ t.flag.c = s.flag.c ∧ t.flag.s = s.flag.s ∧ t.flag.z = s.flag.z

/-- E and P are the same. -/
def State.sameMode (s t : State) : Prop := t.flag.e = s.flag.e ∧ t.flag.p = s.flag.p

/-- The limits and the rule they are checked by are the same. -/
def State.sameLimits (s t : State) : Prop :=
  t.limitLo = s.limitLo ∧ t.limitHi = s.limitHi ∧ t.protectRule = s.protectRule

/-- The limits, the device registers and the history of OUTs are the same. -/
def State.sameIo (s t : State) : Prop := s.sameLimits t ∧ t.dev = s.dev ∧ t.outputs = s.outputs

/-- The halted bit, the pending bits and the queue of requests are the same. -/
def State.sameRequests (s t : State) : Prop :=
  t.halted = s.halted ∧ t.pending = s.pending ∧ t.arrivals = s.arrivals

/-- What no instruction but a system or I/O instruction changes. -/
def State.sameSystem (s t : State) : Prop := s.sameMode t ∧ s.sameIo t ∧ s.sameRequests t

/-- Nothing changes but the listed registers, V, C, S, Z and PC. -/
def State.changesOnly (s t : State) (ds : List Phys) : Prop :=
  s.sameRegsBut t ds ∧ s.sameMemory t ∧ s.sameSystem t

/-- Nothing changes but the listed registers and PC. -/
def State.keepsFlag (s t : State) (ds : List Phys) : Prop :=
  s.changesOnly t ds ∧ s.sameArith t

/-- The two bytes of the word at `a`. -/
def inWord (a : Word) (n : Nat) : Prop := n = a.toNat ∨ n = (a + 1).toNat

/-- The bytes a store of width `w` at `a` writes. -/
def inStore (a : Word) (w : Width) (n : Nat) : Prop :=
  match w with
  | .word => inWord a n
  | .byte => n = a.toNat

/-- The four bytes a trap entry from `s` writes: the words at SSP - 2 and SSP - 4 (60_exceptions.md R220). -/
def State.trapBytes (s : State) (n : Nat) : Prop :=
  inWord (s.regs.ssp - 2) n ∨ inWord (s.regs.ssp - 4) n

/-- A byte of the IPL ROM, F000h to FFDFh (20_memory.md R58). -/
def romByte (n : Nat) : Prop := 0xF000 ≤ n ∧ n ≤ 0xFFDF

/-- The byte addresses in the closed range of the limits (20_memory.md R62). -/
def State.inLimits (s : State) (n : Nat) : Prop := s.limitLo.toNat ≤ n ∧ n ≤ s.limitHi.toNat

/-- The parts of the state that only privileged code or a trap may change: E, P, the system stack pointer, the limits,
the halted bit, the device registers and the history of OUTs (60_exceptions.md R230, R231). -/
def State.sameProtected (s t : State) : Prop :=
  s.sameMode t ∧ t.regs.ssp = s.regs.ssp ∧ s.sameIo t ∧ t.halted = s.halted

/-- The sixteen vector addresses (20_memory.md R58). -/
def isVector (v : Word) : Prop := 0xFFE0 ≤ v.toNat ∧ isOdd v = false

/-- `exec i s` took the trap of an exception and led to `t`. -/
def tookTrap (s t : State) : Prop := ∃ e, raiseExc s e = .next t

/-- The 93 OP bytes whose cell of the opcode map is blank (30_encoding.md R96). -/
def blankOp (op : Nat) : Bool :=
  (0x01 ≤ op && op ≤ 0x07) || op == 0x12 || op == 0x15 || (0x78 ≤ op && op ≤ 0x7F) ||
    (0xA2 ≤ op && op ≤ 0xA5) || op == 0xA7 || (0xAA ≤ op && op ≤ 0xAD) || op == 0xAF ||
    (0xB1 ≤ op && op ≤ 0xB5) || (0xB9 ≤ op && op ≤ 0xBD) || (0xC1 ≤ op && op ≤ 0xC3) ||
    (0xC5 ≤ op && op ≤ 0xC7) || (0xC8 ≤ op && op ≤ 0xCF) || (0xD1 ≤ op && op ≤ 0xD3) ||
    (0xD5 ≤ op && op ≤ 0xD7) || (0xD8 ≤ op && op ≤ 0xDF) || (0xE1 ≤ op && op ≤ 0xE3) ||
    (0xE5 ≤ op && op ≤ 0xE7) || (0xE8 ≤ op && op ≤ 0xEF) || (0xF1 ≤ op && op ≤ 0xF7) ||
    (0xF8 ≤ op && op ≤ 0xFE)

/-- A first word that names no instruction: a blank OP byte, or jump condition D (30_encoding.md R96, R97). -/
def undefinedWord (w1 : Word) : Prop :=
  blankOp (opField w1).toNat = true ∨
    ((opField w1 = 0xA0 ∨ opField w1 = 0xA1 ∨ opField w1 = 0xA6) ∧ rdField w1 = 0xD)

/-- A first word with a non-zero value in a field that its format shows as 0h: bits 3..0 of Direct, Immediate and
format *8 words, bits 7..4 of CALL, bits 7..0 of format *9 (30_encoding.md R98). -/
def nonZeroPad (w1 : Word) : Prop :=
  let op := (opField w1).toNat
  ((0x08 ≤ op ∧ op ≤ 0xBF ∧ (op % 8 = 0 ∨ op % 8 = 2) ∨ op ∈ [0x14, 0xC0, 0xC4]) ∧ rxField w1 ≠ 0) ∨
    (op ∈ [0xA8, 0xA9, 0xAE] ∧ rdField w1 ≠ 0) ∨
    (op ∈ [0x00, 0xD0, 0xD4, 0xE0, 0xE4, 0xF0, 0xFF] ∧ loByte w1 ≠ 0)

/-- An access of kind `k` to the `n` bytes from `a` on meets no limit: it is made in privileged mode, or the machine's
PROTECT does not hold of it (20_memory.md R62). -/
def State.allows (s : State) (k : AccessKind) (a : Word) (n : Nat) : Prop := limitViolation s k a n = false

/-- A word can be read at `a`: the address is even and allowed (20_memory.md R53). -/
def State.canRead (s : State) (a : Word) : Prop := isOdd a = false ∧ s.allows .read a 2

/-- A word can be stored at `a`: the address is even, allowed, and not in ROM (20_memory.md R54). -/
def State.canWrite (s : State) (a : Word) : Prop := isOdd a = false ∧ s.allows .write a 2 ∧ inRom a = false

/-- A byte can be stored at `a`: the address is allowed and not in ROM (20_memory.md R54). -/
def State.canWriteByte (s : State) (a : Word) : Prop := s.allows .write a 1 ∧ inRom a = false

/-- The byte `n` of memory belongs to some access of kind `k` that the limits allow. -/
def State.reaches (s : State) (k : AccessKind) (n : Nat) : Prop :=
  ∃ a : Word, (s.allows k a 1 ∧ n = a.toNat) ∨ (isOdd a = false ∧ s.allows k a 2 ∧ inWord a n)

/-- The system stack can take a trap's two words: SSP even, neither word in ROM (60_exceptions.md R224). -/
def State.canTrap (s : State) : Prop :=
  isOdd s.regs.ssp = false ∧ inRom (s.regs.ssp - 2) = false ∧ inRom (s.regs.ssp - 4) = false

/-- Two states that user-mode code cannot tell apart: they may differ in SSP, in memory that the limits let no fetch and
no read reach, in the history of OUTs and in device registers other than interrupt enables (60_exceptions.md R230,
20_memory.md R62). -/
def State.sameForUser (s t : State) : Prop :=
  s.sameRegsBut t [.ssp] ∧ t.pc = s.pc ∧ t.flag = s.flag ∧ s.sameRequests t ∧
    s.sameLimits t ∧ t.free = s.free ∧ t.draws = s.draws ∧ irqEnables t.dev = irqEnables s.dev ∧
    ∀ n, (s.reaches .fetch n ∨ s.reaches .read n) → t.mem.read n = s.mem.read n

end Sys2Proof.Machine
end

