-- ==== Sys2Proof/Certificates/Slice0/Obligations.lean ====
section
/-!
DEFINITION. The statements for the provers. `resolve s rd = .ok d` names the register a field designates,
`operand s m = .ok b` says that a source operand can be read. A statement about a free value holds for every value:
nothing is said of the values of `free` and `draws` or of the open constants of Config.lean. Where a docstring names a
decision D<n>, the statement rests on a choice that the spec marks as its own (spec/92_eei_decisions.md) and the log entry
beside it.
-/

open Sys2Proof Sys2Proof.Machine

/-! ## Encoding -/

/-- Every well-formed instruction, every operand at every value its field admits, decodes from its own words
(30_encoding.md R80 to R85, R93, R94, R105). -/
def Obligations.DecodeOfEncode : Prop :=
  ∀ i : Instr, i.wellFormed = true →
    ∃ w1 rest, encode i = w1 :: rest ∧ rest.length = i.extraWords ∧
      ∀ w2, (∀ w ∈ rest, w = w2) → decode w1 w2 = .ok i

/-- The other direction: words that decode are the encoding of what they decode to, so no two words (but for an unused
second word) mean one instruction and no bit is dropped. -/
def Obligations.EncodeOfDecode : Prop :=
  ∀ (w1 w2 : Word) (i : Instr), decode w1 w2 = .ok i →
    i.wellFormed = true ∧ encode i = w1 :: List.replicate i.extraWords w2

/-- R81: an instruction has a second word exactly when its OP is 08h to BFh with a mode 0, 1 or 2, and the first word
alone tells. -/
def Obligations.SecondWordFromFirstWord : Prop :=
  ∀ (w1 w2 : Word) (i : Instr), decode w1 w2 = .ok i →
    i.extraWords ≤ 1 ∧
      (i.extraWords = 1 ↔
        0x08 ≤ (opField w1).toNat ∧ (opField w1).toNat ≤ 0xBF ∧ (opField w1).toNat % 8 ≤ 2) ∧
      ∀ v, ∃ j, decode w1 v = .ok j ∧ j.extraWords = i.extraWords

/-- The words that name no instruction are those with one of the 93 blank OP bytes of the opcode map, or with jump
condition D; a non-zero pad field is rejected as such, after the undefined words and before everything else
(30_encoding.md section 5; decisions D15, D16, log 16, 17). -/
def Obligations.UndefinedAndPadWordsExactly : Prop :=
  (∀ w1 w2 : Word, decode w1 w2 = .error .undefined ↔ undefinedWord w1) ∧
    ((List.range 256).filter blankOp).length = 93 ∧
    ∀ w1 w2 : Word, decode w1 w2 = .error .padNonZero ↔ ¬undefinedWord w1 ∧ nonZeroPad w1

/-- Words written out from the encodings printed in spec/30_encoding.md to spec/46_system.md decode to their
instructions. -/
def Obligations.SampleWordsDecode : Prop :=
  decode 0x0000 0 = .ok .no ∧ decode 0x0912 0x1000 = .ok (.ld .g1 (.mem (.indexed 0x1000 .g2))) ∧
    decode 0x0B1F 0 = .ok (.ld .g1 (.mem (.fpRel 0xF))) ∧ decode 0x1400 0 = .ok (.ldFlag .g0) ∧
    decode 0x1712 0 = .ok (.st .g1 (.byteIndirect .g2)) ∧ decode 0x1A30 0x1234 = .ok (.add .g3 (.imm 0x1234)) ∧
    decode 0x6C21 0 = .ok (.mull .g2 (.reg .g1)) ∧ decode 0x9504 0 = .ok (.shra .g0 (.imm4 4)) ∧
    decode 0xA0E0 0x0200 = .ok (.jls (.direct 0x0200)) ∧ decode 0xA90D 0x0004 = .ok (.call (.indexed 4 .sp)) ∧
    decode 0xBF01 0 = .ok (.out .g0 (.byteIndirect .g1)) ∧ decode 0xC4E0 0 = .ok (.pop .usp) ∧
    decode 0xD400 0 = .ok .reti ∧ decode 0xFF00 0 = .ok .halt

/-! ## The step -/

/-- A step runs the decoded instruction. The requests that arrive are taken in first; nothing else is added to `exec`,
which itself sets PC (60_exceptions.md section 2, 30_encoding.md section 3). -/
def Obligations.StepRunsDecodedInstruction : Prop :=
  ∀ (s : State) (w1 w2 : Word) (i : Instr), s.executes → readWord s .fetch s.pc = .ok w1 →
    decode w1 w2 = .ok i → (i.extraWords = 0 ∨ readWord s .fetch (s.pc + 2) = .ok w2) →
      step s = exec i (deliver s)

/-- An instruction placed where the step fetches is what the step runs, in privileged mode at an even PC. -/
def Obligations.StepRunsLoadedWord : Prop :=
  ∀ (s : State) (nbits w : Nat) (i : Instr), s.Inv → s.flag.p = true → isOdd s.pc = false →
    decodeTableWord nbits w = some i →
      step (s.withFetchWord nbits w) = exec i (s.withFetchWord nbits w)

/-- What ends an instruction before it is executed, in this order (decisions D15 to D17 and D21, log 16, 17, 18, 22): the
fetch of the first word, an undefined word, a non-zero pad, the privilege check, the register fields, the fetch of the
second word. So a privileged word whose register field is F raises PrivilegeViolation in user mode (30_encoding.md
R101) and is refused in privileged mode. -/
def Obligations.OrderOfDecodeTimeStops : Prop :=
  ∀ s : State, s.executes →
    (∀ e, readWord s .fetch s.pc = .raise e → step s = raiseExc (deliver s) e) ∧
      ∀ w1, readWord s .fetch s.pc = .ok w1 →
        let privileged : Prop := opField w1 ∈ [0xB0, 0xB6, 0xB7, 0xB8, 0xBE, 0xBF, 0xE0, 0xE4, (0xFF : Byte)]
        (undefinedWord w1 → step s = raiseExc (deliver s) .undefinedInstruction) ∧
          (¬undefinedWord w1 → nonZeroPad w1 → step s = .refused .padNonZero) ∧
          (¬undefinedWord w1 → ¬nonZeroPad w1 → s.flag.p = false → privileged →
            step s = raiseExc (deliver s) .privilegeViolation) ∧
          (¬undefinedWord w1 → ¬nonZeroPad w1 → (s.flag.p = true ∨ ¬privileged) →
            (∀ d, decode w1 0 = .error (.illFormed d) → step s = .refused (defectRefusal d)) ∧
              ∀ i e, decode w1 0 = .ok i → i.extraWords = 1 → readWord s .fetch (s.pc + 2) = .raise e →
                step s = raiseExc (deliver s) e)

/-- An enabled, pending interrupt is accepted before the next instruction: the lowest vector first, its pending bit
cleared, the address of the instruction not yet executed saved. With E = 0 or nothing pending the instruction is
executed (60_exceptions.md section 2; decisions D19, D20, log 20, 21). -/
def Obligations.InterruptAcceptance : Prop :=
  ∀ s : State, s.halted = false →
    (∀ k : Fin 10, s.flag.e = true → (deliver s).pending.getLsbD k.val = true →
      (∀ j : Fin 10, j < k → (deliver s).pending.getLsbD j.val = false) →
        ∃ p : BitVec 10,
          (∀ j : Fin 10, p.getLsbD j.val = ((deliver s).pending.getLsbD j.val && decide (j ≠ k))) ∧
            step s = trapEntry { deliver s with pending := p } (BitVec.ofNat 16 (0xFFE0 + 2 * k.val)) s.pc) ∧
      ((s.flag.e = false ∨ (deliver s).pending = 0) → s.executes)

/-- A halted CPU does nothing and stays halted, whatever is requested (46_system.md R196 of the spec's own decision D24,
log 27). -/
def Obligations.HaltedStepDoesNothing : Prop :=
  ∀ s : State, s.halted = true →
    ∃ t, step s = .next t ∧ t.halted = true ∧ t.regs = s.regs ∧ t.pc = s.pc ∧ t.flag = s.flag ∧ t.mem = s.mem ∧
      s.sameIo t

/-- Requests only add pending bits, each source only while its enable bit stands as last written; the ADC has none
(60_exceptions.md section 2; both places of a timer's I bit count, log 42). -/
def Obligations.RequestsNeedEnableBits : Prop :=
  ∀ (s : State) (m : BitVec 10) (rest : List (BitVec 10)), s.arrivals = m :: rest →
    let enabled : Fin 10 → Bool := fun k =>
      match k with
      | 0 => s.dev.timer0Control.getLsbD 7 || s.dev.timer0Control.getLsbD 15
      | 1 => s.dev.timer1Control.getLsbD 7 || s.dev.timer1Control.getLsbD 15
      | 2 => s.dev.rnCtrl.getLsbD 6
      | 3 => s.dev.rnCtrl.getLsbD 7
      | 4 => s.dev.ftdiCtrl.getLsbD 6
      | 5 => s.dev.ftdiCtrl.getLsbD 7
      | 6 => s.dev.tecCtrl.getLsbD 6
      | 7 => s.dev.tecCtrl.getLsbD 7
      | 8 => s.dev.usdCtrl.getLsbD 3
      | 9 => true
    (deliver s).arrivals = rest ∧
      ∀ k : Fin 10, (deliver s).pending.getLsbD k.val =
        (s.pending.getLsbD k.val || (m.getLsbD k.val && enabled k))

/-! ## Traps -/

/-- Trap entry: P set, E cleared, V, C, S, Z kept, the saved PC and under it the old FLAG on the system stack, PC from
the vector word; nothing else changes. When the pushes cannot be made the machine is stuck (60_exceptions.md section 4;
decisions D18, D22, log 19, 23). -/
def Obligations.TrapEntryEffect : Prop :=
  ∀ (s : State) (v x : Word), s.Inv →
    (s.canTrap →
      ∃ t, trapEntry s v x = .next t ∧ t.regs.ssp = s.regs.ssp - 4 ∧ s.sameRegsBut t [.ssp] ∧
        t.flag.p = true ∧ t.flag.e = false ∧ s.sameArith t ∧
        loadWord t.mem (s.regs.ssp - 2) = x ∧ loadWord t.mem (s.regs.ssp - 4) = s.flag.toWord ∧
        (∀ n, ¬s.trapBytes n → t.mem.read n = s.mem.read n) ∧ t.pc = loadWord t.mem v ∧
        s.sameIo t ∧ s.sameRequests t) ∧
      (¬s.canTrap → trapEntry s v x = .fault .trapEntry)

/-- Each exception has its vector. SVC saves the address after itself; the PC a fault saves is free (00_scope.md
section 5, 60_exceptions.md section 4; decision D19, log 20). -/
def Obligations.ExceptionVectors : Prop :=
  ∀ s : State,
    raiseExc s .supervisorCall = trapEntry s 0xFFFE (s.pc + 2) ∧
      ∃ saved : Word,
        raiseExc s .invalidAddress = trapEntry s.afterDraw 0xFFF4 saved ∧
          raiseExc s .addressLimitViolation = trapEntry s.afterDraw 0xFFF6 saved ∧
          raiseExc s .zeroDivide = trapEntry s.afterDraw 0xFFF8 saved ∧
          raiseExc s .privilegeViolation = trapEntry s.afterDraw 0xFFFA saved ∧
          raiseExc s .undefinedInstruction = trapEntry s.afterDraw 0xFFFC saved

/-- RETI in the handler returns to the interrupted program, wherever the trap came from: the same FLAG, the same
registers, PC at the saved address (60_exceptions.md section 5; decisions D5, D18, log 5, 19). -/
def Obligations.TrapThenRetiReturns : Prop :=
  ∀ (s : State) (v x : Word), s.Inv → s.canTrap →
    ∃ t u, trapEntry s v x = .next t ∧ exec .reti t = .next u ∧
      u.flag = s.flag ∧ u.regs = s.regs ∧ u.pc = x ∧ s.sameIo u ∧ s.sameRequests u ∧
      ∀ n, ¬s.trapBytes n → u.mem.read n = s.mem.read n

/-- An exception in reading the source operand is taken from the state the instruction began in: no instruction with a
source operand has changed anything by then (60_exceptions.md section 4; decisions D31, D35, log 35). -/
def Obligations.OperandExceptionIsTaken : Prop :=
  ∀ (s : State) (rd : Reg) (m : Src) (e : Exc) (i : Instr),
    i ∈ [.ld rd m, .add rd m, .sub rd m, .cmp rd m, .and rd m, .or rd m, .xor rd m, .adds rd m, .mul rd m,
      .div rd m, .mod rd m, .mull rd m, .divl rd m, .shla rd m, .shll rd m, .shra rd m, .shrl rd m] →
    i.wellFormed = true → operand s m = .raise e → exec i s = raiseExc s e

/-! ## Memory and operands -/

/-- R53: a word read at an odd address raises InvalidAddress, else a protected address raises AddressLimitViolation,
else the two bytes are delivered, the first in bits 15..8; a byte read meets the protection check only. The check is the
machine's, whichever it is. -/
def Obligations.MemoryReadRule : Prop :=
  ∀ (s : State) (k : AccessKind) (a : Word),
    let protect (n : Nat) : Bool := limitViolation s k a n
    (isOdd a = true → readWord s k a = .raise .invalidAddress) ∧
      (isOdd a = false → protect 2 = true → readWord s k a = .raise .addressLimitViolation) ∧
      (isOdd a = false → protect 2 = false → ∃ x, readWord s k a = .ok x ∧
        x.toNat = 256 * (s.mem.read a.toNat).toNat + (s.mem.read (a + 1).toNat).toNat) ∧
      (protect 1 = true → readByte s k a = .raise .addressLimitViolation) ∧
      (protect 1 = false → readByte s k a = .ok (s.mem.read a.toNat))

/-- R54: the checks of a write, the refusal of the ROM, the bytes written, and no others. -/
def Obligations.MemoryWriteRule : Prop :=
  ∀ (s : State) (a x : Word) (b : Byte), s.Inv →
    let protect (n : Nat) : Bool := limitViolation s .write a n
    (isOdd a = true → writeWord s a x = .raise .invalidAddress) ∧
      (isOdd a = false → protect 2 = true → writeWord s a x = .raise .addressLimitViolation) ∧
      (isOdd a = false → protect 2 = false → romByte a.toNat → writeWord s a x = .refuse .romWrite) ∧
      (isOdd a = false → protect 2 = false → ¬romByte a.toNat → ∃ m, writeWord s a x = .ok m ∧
        m.read a.toNat = x.extractLsb' 8 8 ∧ m.read (a + 1).toNat = x.extractLsb' 0 8 ∧
        ∀ n, ¬inWord a n → m.read n = s.mem.read n) ∧
      (protect 1 = true → writeByte s a b = .raise .addressLimitViolation) ∧
      (protect 1 = false → romByte a.toNat → writeByte s a b = .refuse .romWrite) ∧
      (protect 1 = false → ¬romByte a.toNat → ∃ m, writeByte s a b = .ok m ∧
        m.read a.toNat = b ∧ ∀ n, n ≠ a.toNat → m.read n = s.mem.read n)

/-- The protection check. In privileged mode no access is checked, whatever check the machine has. Under the spec's
default check a user-mode access of any kind must lie wholly in the closed range of the limits, so the bytes user mode
reaches are those of the range (20_memory.md section 7, decision D26, log 29). -/
def Obligations.LimitCheckDefault : Prop :=
  ∀ (s : State) (k : AccessKind) (a : Word) (n : Nat),
    (s.flag.p = true → limitViolation s k a n = false) ∧
      (s.flag.p = false → s.protectRule = .closedRange →
        (1 ≤ n → (limitViolation s k a n = true ↔ ∃ j, j < n ∧ ¬s.inLimits (a.toNat + j))) ∧
          (s.reaches k n ↔ s.inLimits n))

/-- R91: the effective address and the width of each mode that designates a location; sums modulo 2^16. -/
def Obligations.EffectiveAddresses : Prop :=
  ∀ (s : State) (dsp : Word) (d4 : Nibble) (rx : Reg) (x : Word), readReg s rx = .ok x →
    locAddr s (.direct dsp) = .ok dsp ∧ Loc.width (.direct dsp) = .word ∧
      (∃ a, locAddr s (.indexed dsp rx) = .ok a ∧ a.toNat = (dsp.toNat + x.toNat) % 65536) ∧
      Loc.width (.indexed dsp rx) = .word ∧
      (∃ a, locAddr s (.fpRel d4) = .ok a ∧ (a.toNat : Int) = (2 * d4.toInt + s.regs.fp.toNat) % 65536) ∧
      Loc.width (.fpRel d4) = .word ∧
      locAddr s (.indirect rx) = .ok x ∧ Loc.width (.indirect rx) = .word ∧
      locAddr s (.byteIndirect rx) = .ok x ∧ Loc.width (.byteIndirect rx) = .byte

/-- The eight source operands: memory words in modes 0, 1, 3 and 6, a zero-extended byte in mode 7, the second word, a
register, the sign-extended immediate. A word location at an odd address raises InvalidAddress; a word or byte location
that the limits do not allow to be read raises AddressLimitViolation (30_encoding.md section 3, 20_memory.md section 2;
zero extension is decision D3, log 3). -/
def Obligations.OperandOfEachMode : Prop :=
  ∀ (s : State) (l : Loc) (a v : Word) (rs : Reg) (p : Phys) (i4 : Nibble),
    locAddr s l = .ok a → resolve s rs = .ok p →
    (Loc.width l = .word → s.canRead a → operand s (.mem l) = .ok (loadWord s.mem a)) ∧
      (Loc.width l = .word → isOdd a = true → operand s (.mem l) = .raise .invalidAddress) ∧
      (Loc.width l = .word → isOdd a = false → ¬s.allows .read a 2 →
        operand s (.mem l) = .raise .addressLimitViolation) ∧
      (Loc.width l = .byte → s.allows .read a 1 → ∃ b, operand s (.mem l) = .ok b ∧
        b.toNat = (s.mem.read a.toNat).toNat) ∧
      (Loc.width l = .byte → ¬s.allows .read a 1 → operand s (.mem l) = .raise .addressLimitViolation) ∧
      operand s (.imm v) = .ok v ∧ operand s (.reg rs) = .ok (s.regs.get p) ∧
      ∃ b, operand s (.imm4 i4) = .ok b ∧ b.toInt = i4.toInt

/-- The register numbers: 0 to B are G0 to G11, C is FP, D is SSP or USP by P, E is USP; F is refused (10_state.md
section 1; that F is refused is decision D14, log 15). -/
def Obligations.RegisterNumbers : Prop :=
  ∀ s : State,
    resolve s (regOf 0x0) = .ok .g0 ∧ resolve s (regOf 0x1) = .ok .g1 ∧ resolve s (regOf 0x2) = .ok .g2 ∧
      resolve s (regOf 0x3) = .ok .g3 ∧ resolve s (regOf 0x4) = .ok .g4 ∧ resolve s (regOf 0x5) = .ok .g5 ∧
      resolve s (regOf 0x6) = .ok .g6 ∧ resolve s (regOf 0x7) = .ok .g7 ∧ resolve s (regOf 0x8) = .ok .g8 ∧
      resolve s (regOf 0x9) = .ok .g9 ∧ resolve s (regOf 0xA) = .ok .g10 ∧ resolve s (regOf 0xB) = .ok .g11 ∧
      resolve s (regOf 0xC) = .ok .fp ∧
      (s.flag.p = true → resolve s (regOf 0xD) = .ok .ssp) ∧
      (s.flag.p = false → resolve s (regOf 0xD) = .ok .usp) ∧
      resolve s (regOf 0xE) = .ok .usp ∧ resolve s (regOf 0xF) = .refuse .pcOperand

/-- R26: FLAG as a number is the sum of its bits' values, all other bits zero; loaded back, each flag gets its bit. -/
def Obligations.FlagWordLayout : Prop :=
  ∀ f : Flag, f.toWord.toNat =
      0x80 * f.e.toNat + 0x40 * f.p.toNat + 0x08 * f.v.toNat + 0x04 * f.c.toNat + 0x02 * f.s.toNat + f.z.toNat ∧
      flagOfWord f.toWord = f

/-- The next instruction is 2 bytes after a one-word and 4 bytes after a two-word instruction, modulo 2^16
(10_state.md section 2, decision D6, log 6). -/
def Obligations.NextAddress : Prop :=
  ∀ s : State, (npc s 0).toNat = (s.pc.toNat + 2) % 65536 ∧ (npc s 1).toNat = (s.pc.toNat + 4) % 65536

/-! ## Moves -/

/-- R120, R121, R122: NO does nothing; LD loads its operand, or takes the exception of reading it; LD Rd,FLAG loads
FLAG. No flag changes. -/
def Obligations.MoveResults : Prop :=
  ∀ s : State,
    (∃ t, exec .no s = .next t ∧ t.pc = npc s 0 ∧ s.keepsFlag t []) ∧
      ∀ (rd : Reg) (d : Phys), resolve s rd = .ok d →
        (∃ t, exec (.ldFlag rd) s = .next t ∧ t.regs.get d = s.flag.toWord ∧ t.pc = npc s 0 ∧
          s.keepsFlag t [d]) ∧
          ∀ m : Src,
            (∀ v, operand s m = .ok v → ∃ t, exec (.ld rd m) s = .next t ∧ t.regs.get d = v ∧
              t.pc = npc s m.extraWords ∧ s.keepsFlag t [d]) ∧
              ∀ e, operand s m = .raise e → exec (.ld rd m) s = raiseExc s e

/-- R123: ST stores Rd, in mode 7 its low byte, at the location its mode designates, and nothing else changes; an odd
word address and an address outside the limits raise their exceptions, and a store into the ROM is refused. -/
def Obligations.StoreResult : Prop :=
  ∀ (s : State) (rd : Reg) (m : Loc) (d : Phys) (a : Word), s.Inv → resolve s rd = .ok d →
    locAddr s m = .ok a →
    let kept (t : State) : Prop :=
      s.sameRegsBut t [] ∧ s.sameArith t ∧ s.sameSystem t ∧ t.pc = npc s m.extraWords ∧
        ∀ n, ¬inStore a (Loc.width m) n → t.mem.read n = s.mem.read n
    (Loc.width m = .word →
      (s.canWrite a → ∃ t, exec (.st rd m) s = .next t ∧ loadWord t.mem a = s.regs.get d ∧ kept t) ∧
        (isOdd a = true → exec (.st rd m) s = raiseExc s .invalidAddress) ∧
        (isOdd a = false → ¬s.allows .write a 2 → exec (.st rd m) s = raiseExc s .addressLimitViolation) ∧
        (isOdd a = false → s.allows .write a 2 → inRom a = true → exec (.st rd m) s = .refused .romWrite)) ∧
      (Loc.width m = .byte →
        (s.canWriteByte a → ∃ t, exec (.st rd m) s = .next t ∧
          t.mem.read a.toNat = loByte (s.regs.get d) ∧ kept t) ∧
          (¬s.allows .write a 1 → exec (.st rd m) s = raiseExc s .addressLimitViolation) ∧
          (s.allows .write a 1 → inRom a = true → exec (.st rd m) s = .refused .romWrite))

/-! ## Arithmetic and logic -/

/-- ADD and SUB: the sum and the difference modulo 2^16; C the carry out of bit 15 or the borrow, V two's-complement
overflow, S and Z of the result (41_arith_logic.md; ADD's flags are decision D7, SUB's are derived from CMP's,
log 7). -/
def Obligations.AddAndSubResults : Prop :=
  ∀ (s : State) (rd : Reg) (m : Src) (d : Phys) (b : Word), resolve s rd = .ok d → operand s m = .ok b →
    let a := s.regs.get d
    let done (i : Instr) (exact signed : Int) (carry : Prop) : Prop :=
      ∃ t, exec i s = .next t ∧ ((t.regs.get d).toNat : Int) = exact % 65536 ∧ (t.flag.c = true ↔ carry) ∧
        (t.flag.v = true ↔ signed < -32768 ∨ 32767 < signed) ∧
        (t.flag.s = true ↔ 32768 ≤ (t.regs.get d).toNat) ∧ (t.flag.z = true ↔ t.regs.get d = 0) ∧
        t.pc = npc s m.extraWords ∧ s.changesOnly t [d]
    done (.add rd m) (a.toNat + b.toNat) (a.toInt + b.toInt) (65536 ≤ a.toNat + b.toNat) ∧
      done (.sub rd m) (a.toNat - b.toNat) (a.toInt - b.toInt) (a.toNat < b.toNat)

/-- R133: CMP writes the flags of the subtraction and no register, and then each jump of the comparison table is taken
exactly when its relation holds between Rd and the operand. -/
def Obligations.CompareThenJump : Prop :=
  ∀ (s : State) (rd : Reg) (m : Src) (d : Phys) (b : Word), resolve s rd = .ok d → operand s m = .ok b →
    let a := s.regs.get d
    ∃ t, exec (.cmp rd m) s = .next t ∧ t.pc = npc s m.extraWords ∧ s.changesOnly t [] ∧
      (t.flag.c = true ↔ a.toNat < b.toNat) ∧
      (t.flag.v = true ↔ a.msb ≠ b.msb ∧ (a - b).msb ≠ a.msb) ∧
      (t.flag.s = true ↔ (a - b).msb = true) ∧ (t.flag.z = true ↔ a - b = 0) ∧
      ∀ (j : Target) (e : Word), targetAddr t j = .ok e →
        let goes (i : Instr) (r : Prop) : Prop :=
          (r → exec i t = .next (t.goto e)) ∧ (¬r → exec i t = .next (t.goto (npc t j.extraWords)))
        goes (.jgt j) (b.toInt < a.toInt) ∧ goes (.jge j) (b.toInt ≤ a.toInt) ∧
          goes (.jle j) (a.toInt ≤ b.toInt) ∧ goes (.jlt j) (a.toInt < b.toInt) ∧
          goes (.jhi j) (b.toNat < a.toNat) ∧ goes (.jnc j) (b.toNat ≤ a.toNat) ∧
          goes (.jls j) (a.toNat ≤ b.toNat) ∧ goes (.jc j) (a.toNat < b.toNat) ∧
          goes (.jz j) (a = b) ∧ goes (.jnz j) (a ≠ b)

/-- AND, OR and XOR: the bitwise result, S and Z of it; C and V are left open (41_arith_logic.md; LOGIC_CV is open,
decision D8, log 8). -/
def Obligations.LogicResults : Prop :=
  ∀ (s : State) (rd : Reg) (m : Src) (d : Phys) (b : Word), resolve s rd = .ok d → operand s m = .ok b →
    let a := s.regs.get d
    let done (i : Instr) (bit : Bool → Bool → Bool) : Prop :=
      ∃ t, exec i s = .next t ∧
        (∀ n, n < 16 → (t.regs.get d).getLsbD n = bit (a.getLsbD n) (b.getLsbD n)) ∧
        (t.flag.s = true ↔ 32768 ≤ (t.regs.get d).toNat) ∧ (t.flag.z = true ↔ t.regs.get d = 0) ∧
        t.pc = npc s m.extraWords ∧ s.changesOnly t [d]
    done (.and rd m) (fun x y => x && y) ∧ done (.or rd m) (fun x y => x || y) ∧
      done (.xor rd m) (fun x y => x ^^ y)

/-- ADDS: Rd plus twice the operand; S and Z of the result, C and V left open (41_arith_logic.md; decision D9,
log 9). -/
def Obligations.AddScaledResult : Prop :=
  ∀ (s : State) (rd : Reg) (m : Src) (d : Phys) (b : Word), resolve s rd = .ok d → operand s m = .ok b →
    ∃ t, exec (.adds rd m) s = .next t ∧
      (t.regs.get d).toNat = ((s.regs.get d).toNat + 2 * b.toNat) % 65536 ∧
      (t.flag.s = true ↔ 32768 ≤ (t.regs.get d).toNat) ∧ (t.flag.z = true ↔ t.regs.get d = 0) ∧
      t.pc = npc s m.extraWords ∧ s.changesOnly t [d]

/-! ## Multiply and divide -/

/-- MUL leaves the low word of the product; MULL leaves the whole product in (Rd + 1, Rd), read as DIV_SIGNED says.
The flags are left open (42_mul_div.md; decisions D10 to D12, log 10, 11, 12). -/
def Obligations.MultiplyResults : Prop :=
  ∀ (s : State) (rd : Reg) (m : Src) (b : Word), operand s m = .ok b →
    (∀ d, resolve s rd = .ok d →
      ∃ t, exec (.mul rd m) s = .next t ∧
        (t.regs.get d).toNat = ((s.regs.get d).toNat * b.toNat) % 65536 ∧
        t.pc = npc s m.extraWords ∧ s.changesOnly t [d]) ∧
      ∀ lo hi, pairOf rd = .ok (lo, hi) →
        let a := s.regs.get lo
        ∃ t, exec (.mull rd m) s = .next t ∧
          (Config.divSigned = false →
            65536 * (t.regs.get hi).toNat + (t.regs.get lo).toNat = a.toNat * b.toNat) ∧
          (Config.divSigned = true →
            65536 * (t.regs.get hi).toInt + (t.regs.get lo).toNat = a.toInt * b.toInt) ∧
          t.pc = npc s m.extraWords ∧ s.changesOnly t [lo, hi]

/-- DIV and MOD: ZeroDivide on a zero divisor; else the quotient rounded toward zero and the remainder with the
dividend's sign, read as DIV_SIGNED says; a signed -32768 / -1 leaves an open quotient (42_mul_div.md; decisions D10,
D11, D33, log 10, 11). -/
def Obligations.DivideAndModulo : Prop :=
  ∀ (s : State) (rd : Reg) (m : Src) (d : Phys) (b : Word), resolve s rd = .ok d → operand s m = .ok b →
    let a := s.regs.get d
    (b = 0 → exec (.div rd m) s = raiseExc s .zeroDivide ∧ exec (.mod rd m) s = raiseExc s .zeroDivide) ∧
      (b ≠ 0 →
        (∃ t, exec (.div rd m) s = .next t ∧
          (Config.divSigned = false → (t.regs.get d).toNat = a.toNat / b.toNat) ∧
          (Config.divSigned = true → ¬(a.toInt = -32768 ∧ b.toInt = -1) →
            (t.regs.get d).toInt = a.toInt.tdiv b.toInt) ∧
          t.pc = npc s m.extraWords ∧ s.changesOnly t [d]) ∧
          ∃ t, exec (.mod rd m) s = .next t ∧
            (Config.divSigned = false → (t.regs.get d).toNat = a.toNat % b.toNat) ∧
            (Config.divSigned = true → (t.regs.get d).toInt = a.toInt.tmod b.toInt) ∧
            t.pc = npc s m.extraWords ∧ s.changesOnly t [d])

/-- DIVL: ZeroDivide on a zero divisor; else, where the quotient fits in 16 bits, Rd gets it and Rd + 1 the remainder;
where it does not fit the instruction is refused. Unsigned, it fits exactly when Rd + 1 is below the divisor
(42_mul_div.md; decisions D11, D12, D33, log 12, 13, 44). -/
def Obligations.DivideLong : Prop :=
  ∀ (s : State) (rd : Reg) (m : Src) (lo hi : Phys) (b : Word), pairOf rd = .ok (lo, hi) →
    operand s m = .ok b →
    let n := 65536 * (s.regs.get hi).toNat + (s.regs.get lo).toNat
    let i := 65536 * (s.regs.get hi).toInt + (s.regs.get lo).toNat
    let done (result : State → Prop) : Prop :=
      ∃ t, exec (.divl rd m) s = .next t ∧ result t ∧ t.pc = npc s m.extraWords ∧ s.changesOnly t [lo, hi]
    let refused : Prop := exec (.divl rd m) s = .refused .quotientOverflow
    (b = 0 → exec (.divl rd m) s = raiseExc s .zeroDivide) ∧
      (b ≠ 0 → Config.divSigned = false →
        ((s.regs.get hi).toNat < b.toNat → done fun t =>
          (t.regs.get lo).toNat = n / b.toNat ∧ (t.regs.get hi).toNat = n % b.toNat) ∧
          (b.toNat ≤ (s.regs.get hi).toNat → refused)) ∧
      (b ≠ 0 → Config.divSigned = true →
        (-32768 ≤ i.tdiv b.toInt ∧ i.tdiv b.toInt ≤ 32767 → done fun t =>
          (t.regs.get lo).toInt = i.tdiv b.toInt ∧ (t.regs.get hi).toInt = i.tmod b.toInt) ∧
          (¬(-32768 ≤ i.tdiv b.toInt ∧ i.tdiv b.toInt ≤ 32767) → refused))

/-- DIVL undoes MULL: with the same non-zero operand it gives back the old Rd and remainder 0, signed or unsigned
(42_mul_div.md section on DIVL; decision D12, log 12). -/
def Obligations.DivideLongUndoesMultiplyLong : Prop :=
  ∀ (s : State) (rd : Reg) (m m' : Src) (lo hi : Phys) (b : Word), pairOf rd = .ok (lo, hi) →
    operand s m = .ok b → b ≠ 0 →
      ∃ t, exec (.mull rd m) s = .next t ∧
        (operand t m' = .ok b → ∃ u, exec (.divl rd m') t = .next u ∧
          u.regs.get lo = s.regs.get lo ∧ u.regs.get hi = 0)

/-! ## Shifts -/

/-- The shifts: for a count up to 15 the result of each, S and Z of it, C and V open; a larger count is refused
(43_shift.md; decision D13, log 14). -/
def Obligations.ShiftResults : Prop :=
  ∀ (s : State) (rd : Reg) (m : Src) (d : Phys) (n : Word), resolve s rd = .ok d → operand s m = .ok n →
    let a := s.regs.get d
    let done (i : Instr) (result : Word → Prop) : Prop :=
      (n.toNat ≤ 15 → ∃ t, exec i s = .next t ∧ result (t.regs.get d) ∧
        (t.flag.s = true ↔ 32768 ≤ (t.regs.get d).toNat) ∧ (t.flag.z = true ↔ t.regs.get d = 0) ∧
        t.pc = npc s m.extraWords ∧ s.changesOnly t [d]) ∧
        (16 ≤ n.toNat → exec i s = .refused .shiftCount)
    done (.shla rd m) (fun r => r.toNat = (a.toNat * 2 ^ n.toNat) % 65536) ∧
      done (.shll rd m) (fun r => r.toNat = (a.toNat * 2 ^ n.toNat) % 65536) ∧
      done (.shra rd m) (fun r => r.toInt = a.toInt / 2 ^ n.toNat) ∧
      done (.shrl rd m) (fun r => r.toNat = a.toNat / 2 ^ n.toNat)

/-! ## Jumps, calls and the stack -/

/-- R161 to R164 and R169 to R172: the eight jumps on one flag. Nothing but PC changes. -/
def Obligations.JumpsOnOneFlag : Prop :=
  ∀ (s : State) (t : Target) (a : Word), targetAddr s t = .ok a →
    let jumps (i : Instr) (taken : Bool) : Prop :=
      exec i s = .next (if taken then s.goto a else s.goto (npc s t.extraWords))
    jumps (.jz t) s.flag.z ∧ jumps (.jc t) s.flag.c ∧ jumps (.jm t) s.flag.s ∧ jumps (.jo t) s.flag.v ∧
      jumps (.jnz t) (!s.flag.z) ∧ jumps (.jnc t) (!s.flag.c) ∧ jumps (.jnm t) (!s.flag.s) ∧
      jumps (.jno t) (!s.flag.v)

/-- R165 to R168, R173 to R175: the six jumps on a relation, and JMP. Nothing but PC changes. -/
def Obligations.JumpsOnRelations : Prop :=
  ∀ (s : State) (t : Target) (a : Word), targetAddr s t = .ok a →
    let f := s.flag
    let jumps (i : Instr) (taken : Prop) : Prop :=
      (taken → exec i s = .next (s.goto a)) ∧ (¬taken → exec i s = .next (s.goto (npc s t.extraWords)))
    jumps (.jgt t) (f.z = false ∧ f.s = f.v) ∧ jumps (.jge t) (f.s = f.v) ∧
      jumps (.jle t) (f.z = true ∨ f.s ≠ f.v) ∧ jumps (.jlt t) (f.s ≠ f.v) ∧
      jumps (.jhi t) (f.z = false ∧ f.c = false) ∧ jumps (.jls t) (f.z = true ∨ f.c = true) ∧
      jumps (.jmp t) True

/-- CALL and PUSH store one word at SP - 2, the stack of the mode at the start of the instruction: CALL the address of
the next instruction, PUSH the register as it was. An odd address and an address outside the limits raise their
exceptions, and a store into the ROM is refused (44_jump_call.md, 45_io_stack.md, 20_memory.md section 6; decisions D4,
D5, D6, D27, log 4, 5, 6, 30). -/
def Obligations.CallAndPush : Prop :=
  ∀ s : State, s.Inv →
    let sp := s.regs.get (spOf s)
    let stores (i : Instr) (v next : Word) : Prop :=
      (s.canWrite (sp - 2) → ∃ t, exec i s = .next t ∧ t.pc = next ∧ loadWord t.mem (sp - 2) = v ∧
        t.regs.get (spOf s) = sp - 2 ∧ s.sameRegsBut t [spOf s] ∧
        (∀ n, ¬inWord (sp - 2) n → t.mem.read n = s.mem.read n) ∧ s.sameArith t ∧ s.sameSystem t) ∧
        (isOdd sp = true → exec i s = raiseExc s .invalidAddress) ∧
        (isOdd sp = false → ¬s.allows .write (sp - 2) 2 → exec i s = raiseExc s .addressLimitViolation) ∧
        (isOdd sp = false → s.allows .write (sp - 2) 2 → inRom (sp - 2) = true → exec i s = .refused .romWrite)
    (∀ tg a, targetAddr s tg = .ok a → stores (.call tg) (npc s tg.extraWords) a) ∧
      ∀ rd d, resolve s rd = .ok d → stores (.push rd) (s.regs.get d) (npc s 0)

/-- R184, R191: POP and RET take the word SP points at and raise SP by 2; POP writes Rd after SP, RET writes PC. -/
def Obligations.PopAndRet : Prop :=
  ∀ s : State,
    let sp := s.regs.get (spOf s)
    let faults (i : Instr) : Prop :=
      (isOdd sp = true → exec i s = raiseExc s .invalidAddress) ∧
        (isOdd sp = false → ¬s.allows .read sp 2 → exec i s = raiseExc s .addressLimitViolation)
    (∀ rd d, resolve s rd = .ok d →
      (s.canRead sp → ∃ t, exec (.pop rd) s = .next t ∧ t.regs.get d = loadWord s.mem sp ∧
        (d ≠ spOf s → t.regs.get (spOf s) = sp + 2) ∧ t.pc = npc s 0 ∧ s.keepsFlag t [d, spOf s]) ∧
        faults (.pop rd)) ∧
      (s.canRead sp → ∃ t, exec .ret s = .next t ∧ t.pc = loadWord s.mem sp ∧
        t.regs.get (spOf s) = sp + 2 ∧ s.keepsFlag t [spOf s]) ∧
      faults .ret

/-- RET after CALL continues at the instruction after the CALL with the stack pointer and every register as before, where
the word at SP - 2 can be both stored and read
(46_system.md on RET, 44_jump_call.md on CALL; decisions D4, D6, log 4, 6). -/
def Obligations.CallThenRetReturns : Prop :=
  ∀ (s : State) (tg : Target) (a : Word), s.Inv → targetAddr s tg = .ok a →
    s.canWrite (s.regs.get (spOf s) - 2) → s.canRead (s.regs.get (spOf s) - 2) →
      ∃ t u, exec (.call tg) s = .next t ∧ exec .ret t = .next u ∧
        u.pc = npc s tg.extraWords ∧ u.regs = s.regs ∧ u.flag = s.flag

/-- POP after PUSH copies one register to another and leaves SP as it was, where the word at SP - 2 can be both stored and
read (45_io_stack.md on POP; decision D4,
log 4). -/
def Obligations.PushThenPopCopies : Prop :=
  ∀ (s : State) (rs rd : Reg) (p d : Phys), s.Inv → resolve s rs = .ok p → resolve s rd = .ok d →
    s.canWrite (s.regs.get (spOf s) - 2) → s.canRead (s.regs.get (spOf s) - 2) →
      ∃ t u, exec (.push rs) s = .next t ∧ exec (.pop rd) t = .next u ∧
        u.regs = s.regs.set d (s.regs.get p) ∧ u.flag = s.flag

/-! ## Input and output -/

/-- IN in privileged mode loads what the device delivers, any value but for the bits the I/O map prints as zero; the mode
port delivers the code of the mode the board was started in. A word IN at an odd port and an I/O address above FFh are
refused (45_io_stack.md, 60_exceptions.md section 7; decisions D17, D25, D34, log 18, 28, 36). -/
def Obligations.InResult : Prop :=
  ∀ (s : State) (rd : Reg) (p : Port) (d : Phys) (e : Word), s.flag.p = true → resolve s rd = .ok d →
    portEa s p = .ok e →
    (256 ≤ e.toNat → exec (.inp rd p) s = .refused .ioAddress) ∧
      (e.toNat < 256 → Port.width p = .word → isOdd e = true → exec (.inp rd p) s = .refused .ioOddWord) ∧
      (e.toNat < 256 → (Port.width p = .word → isOdd e = false) →
        ∃ t raw, exec (.inp rd p) s = .next t ∧ t.regs.get d = inValue s.dev.mode (loByte e) (Port.width p) raw ∧
          (e.toNat = 0x1E ∧ Port.width p = .word ∨ e.toNat = 0x1F →
            (t.regs.get d).toNat =
              match s.dev.mode with
              | .teC => 0
              | .taC => 1
              | .demo1 => 2
              | .demo2 => 3
              | .rn4020FactoryReset => 7) ∧
          s.sameRegsBut t [d] ∧ s.sameMemory t ∧ t.flag = s.flag ∧ s.sameRequests t ∧
          s.sameLimits t ∧ t.outputs = s.outputs ∧ t.dev.mode = s.dev.mode ∧
          irqEnables t.dev = irqEnables s.dev ∧ t.pc = npc s p.extraWords)

/-- What an IN can deliver: a byte is zero-extended; the even byte of an 8-bit port reads as zero, in a word and by
itself, and so does every bit the I/O map or a bit row prints as 0, again in a word and in the byte of its odd port.
Every other port, a free or reserved one among them, delivers any value (60_exceptions.md section 7; decision D34,
log 36). -/
def Obligations.InputZeroBits : Prop :=
  ∀ (b : BoardMode) (raw : Word),
    let word (a : Byte) : Word := inValue b a .word raw
    let byte (a : Byte) : Word := inValue b a .byte raw
    (∀ a, (byte a).toNat < 256) ∧
      (∀ a ∈ [0x08, 0x0C, 0x18, 0x1A, 0x1C, 0x20, 0x22, 0x24, 0x26, 0x28, (0x2C : Byte)],
        word a = raw &&& 0x00FF) ∧
      (∀ a ∈ [0x0A, 0x0E, (0x2A : Byte)], word a &&& 0xFF3F = 0) ∧
      word 0x10 &&& 0xFFF3 = 0 ∧ word 0x1E &&& 0xFFF8 = 0 ∧ word 0xFC &&& 0xFFE0 = 0 ∧ word 0xFE &&& 0xFFF0 = 0 ∧
      (∀ a ∈ [0x08, 0x0A, 0x0C, 0x0E, 0x10, 0x18, 0x1A, 0x1C, 0x1E, 0x20, 0x22, 0x24, 0x26, 0x28, 0x2A, 0x2C, 0xFC,
        (0xFE : Byte)], byte a = 0) ∧
      (∀ a ∈ [0x0B, 0x0F, (0x2B : Byte)], byte a &&& 0xFF3F = 0) ∧
      byte 0x11 &&& 0xFFF3 = 0 ∧ byte 0x1F &&& 0xFFF8 = 0 ∧ byte 0xFD &&& 0xFFE0 = 0 ∧ byte 0xFF &&& 0xFFF0 = 0 ∧
      (∀ a : Byte, a.toNat ≤ 0x07 ∨ 0x12 ≤ a.toNat ∧ a.toNat ≤ 0x17 ∨ 0x2E ≤ a.toNat ∧ a.toNat ≤ 0xFB →
        byte a = raw &&& 0x00FF ∧ (isOdd (a.setWidth 16) = false → word a = raw)) ∧
      ∀ a ∈ [0x09, 0x0D, 0x19, 0x1B, 0x1D, 0x21, 0x23, 0x25, 0x27, 0x29, (0x2D : Byte)], byte a = raw &&& 0x00FF

/-- OUT in privileged mode joins the history; a word at F4h or F6h sets a limit; elsewhere it reaches the device
registers. A byte OUT to the limit ports, a word OUT at an odd port and an address above FFh are refused
(45_io_stack.md, 60_exceptions.md section 7; decisions D17, D25, D26, D34, log 18, 28, 29, 36). -/
def Obligations.OutResult : Prop :=
  ∀ (s : State) (rd : Reg) (p : Port) (d : Phys) (e : Word), s.flag.p = true → resolve s rd = .ok d →
    portEa s p = .ok e →
    let v := s.regs.get d
    let limitPort : Prop := 0xF4 ≤ e.toNat ∧ e.toNat ≤ 0xF7
    (256 ≤ e.toNat → exec (.out rd p) s = .refused .ioAddress) ∧
      (e.toNat < 256 → Port.width p = .word → isOdd e = true → exec (.out rd p) s = .refused .ioOddWord) ∧
      (Port.width p = .byte → limitPort → exec (.out rd p) s = .refused .limitByteOut) ∧
      (e.toNat < 256 → (Port.width p = .word → isOdd e = false) → (Port.width p = .byte → ¬limitPort) →
        ∃ t, exec (.out rd p) s = .next t ∧ t.regs = s.regs ∧ s.sameMemory t ∧ t.flag = s.flag ∧
          s.sameRequests t ∧ t.protectRule = s.protectRule ∧ t.pc = npc s p.extraWords ∧
          (∃ x : Word, t.outputs = s.outputs ++ [{ port := loByte e, width := Port.width p, value := x }] ∧
            (Port.width p = .word → x = v) ∧ (Port.width p = .byte → x.toNat = v.toNat % 256)) ∧
          (e.toNat = 0xF4 → t.limitLo = v ∧ t.limitHi = s.limitHi ∧ t.dev = s.dev) ∧
          (e.toNat = 0xF6 → t.limitHi = v ∧ t.limitLo = s.limitLo ∧ t.dev = s.dev) ∧
          (¬limitPort → t.limitLo = s.limitLo ∧ t.limitHi = s.limitHi ∧
            t.dev = devWrite s.dev (loByte e) (Port.width p) v))

/-- The output registers behind the I/O map. A word OUT to a 16-bit port sets it, a byte OUT to one of its two addresses
that half of it (the even address bits 15..8); a word OUT to the even address of an 8-bit port and a byte OUT to its odd
address set it from bits 7..0; an input-only, free or reserved port and the even byte of an 8-bit port keep nothing
(60_exceptions.md section 7; decisions D25, D34, log 28, 36; the halves of a 16-bit register are the model's reading,
log 37). -/
def Obligations.OutputRegistersByPort : Prop :=
  ∀ (d : Devices) (v : Word),
    devWrite d 0x00 .word v = { d with timer0Period := v } ∧
      devWrite d 0x02 .word v = { d with timer0Control := v } ∧
      devWrite d 0x04 .word v = { d with timer1Period := v } ∧
      devWrite d 0x06 .word v = { d with timer1Control := v } ∧
      devWrite d 0x08 .word v = { d with ftdiTx := loByte v } ∧
      devWrite d 0x0A .word v = { d with ftdiCtrl := loByte v } ∧
      devWrite d 0x0C .word v = { d with tecTx := loByte v } ∧
      devWrite d 0x0E .word v = { d with tecCtrl := loByte v } ∧
      devWrite d 0x10 .word v = { d with usdCtrl := loByte v } ∧
      devWrite d 0x12 .word v = { d with usdMemAddr := v } ∧
      devWrite d 0x14 .word v = { d with usdBlkAddrH := v } ∧
      devWrite d 0x16 .word v = { d with usdBlkAddrL := v } ∧
      devWrite d 0x18 .word v = { d with extOut := loByte v } ∧
      devWrite d 0x1A .word v = { d with adcRef := loByte v } ∧
      devWrite d 0x1C .word v = { d with extHi := loByte v } ∧
      devWrite d 0x28 .word v = { d with rnTx := loByte v } ∧
      devWrite d 0x2A .word v = { d with rnCtrl := loByte v } ∧
      devWrite d 0x2C .word v = { d with rnCmd := loByte v } ∧
      devWrite d 0xF8 .word v = { d with consoleData := v } ∧
      (∀ a : Byte, (0x1E ≤ a.toNat ∧ a.toNat ≤ 0x26 ∨ 0x2E ≤ a.toNat ∧ a.toNat ≤ 0xF3 ∨ 0xFA ≤ a.toNat) →
        isOdd (a.setWidth 16) = false → devWrite d a .word v = d) ∧
      (let hi (w : Word) : Word := v <<< 8 ||| (w &&& 0x00FF)
      let lo (w : Word) : Word := (w &&& 0xFF00) ||| (v &&& 0x00FF)
      devWrite d 0x00 .byte v = { d with timer0Period := hi d.timer0Period } ∧
        devWrite d 0x01 .byte v = { d with timer0Period := lo d.timer0Period } ∧
        devWrite d 0x02 .byte v = { d with timer0Control := hi d.timer0Control } ∧
        devWrite d 0x03 .byte v = { d with timer0Control := lo d.timer0Control } ∧
        devWrite d 0x04 .byte v = { d with timer1Period := hi d.timer1Period } ∧
        devWrite d 0x05 .byte v = { d with timer1Period := lo d.timer1Period } ∧
        devWrite d 0x06 .byte v = { d with timer1Control := hi d.timer1Control } ∧
        devWrite d 0x07 .byte v = { d with timer1Control := lo d.timer1Control } ∧
        devWrite d 0x12 .byte v = { d with usdMemAddr := hi d.usdMemAddr } ∧
        devWrite d 0x13 .byte v = { d with usdMemAddr := lo d.usdMemAddr } ∧
        devWrite d 0x14 .byte v = { d with usdBlkAddrH := hi d.usdBlkAddrH } ∧
        devWrite d 0x15 .byte v = { d with usdBlkAddrH := lo d.usdBlkAddrH } ∧
        devWrite d 0x16 .byte v = { d with usdBlkAddrL := hi d.usdBlkAddrL } ∧
        devWrite d 0x17 .byte v = { d with usdBlkAddrL := lo d.usdBlkAddrL } ∧
        devWrite d 0xF8 .byte v = { d with consoleData := hi d.consoleData } ∧
        devWrite d 0xF9 .byte v = { d with consoleData := lo d.consoleData }) ∧
      devWrite d 0x09 .byte v = { d with ftdiTx := loByte v } ∧
      devWrite d 0x0B .byte v = { d with ftdiCtrl := loByte v } ∧
      devWrite d 0x0D .byte v = { d with tecTx := loByte v } ∧
      devWrite d 0x0F .byte v = { d with tecCtrl := loByte v } ∧
      devWrite d 0x11 .byte v = { d with usdCtrl := loByte v } ∧
      devWrite d 0x19 .byte v = { d with extOut := loByte v } ∧
      devWrite d 0x1B .byte v = { d with adcRef := loByte v } ∧
      devWrite d 0x1D .byte v = { d with extHi := loByte v } ∧
      devWrite d 0x29 .byte v = { d with rnTx := loByte v } ∧
      devWrite d 0x2B .byte v = { d with rnCtrl := loByte v } ∧
      devWrite d 0x2D .byte v = { d with rnCmd := loByte v } ∧
      (∀ a ∈ [0x08, 0x0A, 0x0C, 0x0E, 0x10, 0x18, 0x1A, 0x1C, 0x28, 0x2A, (0x2C : Byte)], devWrite d a .byte v = d) ∧
      ∀ a : Byte, (0x1E ≤ a.toNat ∧ a.toNat ≤ 0x27 ∨ 0x2E ≤ a.toNat ∧ a.toNat ≤ 0xF3 ∨ 0xFA ≤ a.toNat) →
        devWrite d a .byte v = d

/-! ## System instructions -/

/-- RETI takes FLAG, then PC, from the stack the mode at its start names: all six bits in privileged mode, V, C, S and Z
only in user mode. An odd SP raises InvalidAddress; in user mode either of the two words outside the limits raises
AddressLimitViolation (46_system.md; decisions D5, D17, D30, log 5, 18, 34). -/
def Obligations.RetiResult : Prop :=
  ∀ s : State,
    let sp := s.regs.get (spOf s)
    let f := loadWord s.mem sp
    (s.canRead sp → s.canRead (sp + 2) →
      ∃ t, exec .reti s = .next t ∧ t.pc = loadWord s.mem (sp + 2) ∧ t.regs.get (spOf s) = sp + 4 ∧
        s.sameRegsBut t [spOf s] ∧ s.sameMemory t ∧ s.sameIo t ∧ s.sameRequests t ∧
        (s.flag.p = true → t.flag.toWord = f &&& 0x00CF) ∧
        (s.flag.p = false → t.flag.toWord = (s.flag.toWord &&& 0x00C0) ||| (f &&& 0x000F))) ∧
      (isOdd sp = true → exec .reti s = raiseExc s .invalidAddress) ∧
      (isOdd sp = false → ¬s.allows .read sp 2 ∨ ¬s.allows .read (sp + 2) 2 →
        exec .reti s = raiseExc s .addressLimitViolation)

/-- EI sets E, DI clears it, HALT stops the CPU with PC after it, all in privileged mode (46_system.md; decisions D17,
D24, log 18, 27). -/
def Obligations.InterruptEnableAndHalt : Prop :=
  ∀ s : State, s.flag.p = true →
    (∃ t, exec .ei s = .next t ∧ t.flag = { s.flag with e := true } ∧ t.pc = npc s 0 ∧
      t.regs = s.regs ∧ s.sameMemory t ∧ s.sameIo t ∧ s.sameRequests t) ∧
      (∃ t, exec .di s = .next t ∧ t.flag = { s.flag with e := false } ∧ t.pc = npc s 0 ∧
        t.regs = s.regs ∧ s.sameMemory t ∧ s.sameIo t ∧ s.sameRequests t) ∧
      ∃ t, exec .halt s = .next t ∧ t.halted = true ∧ t.flag = s.flag ∧ t.pc = npc s 0 ∧
        t.regs = s.regs ∧ s.sameMemory t ∧ s.sameIo t ∧ t.pending = s.pending ∧ t.arrivals = s.arrivals

/-- SVC always takes its trap, in either mode: FLAG and the address after the SVC on the system stack, the handler at the
word at FFFEh (46_system.md, 60_exceptions.md section 4; decisions D18, D19, log 19, 20). -/
def Obligations.SupervisorCallTraps : Prop :=
  ∀ s : State, s.Inv → s.canTrap →
    ∃ t, exec .svc s = .next t ∧ t.regs.ssp = s.regs.ssp - 4 ∧ s.sameRegsBut t [.ssp] ∧
      loadWord t.mem (s.regs.ssp - 2) = s.pc + 2 ∧ loadWord t.mem (s.regs.ssp - 4) = s.flag.toWord ∧
      t.flag = { s.flag with p := true, e := false } ∧ t.pc = loadWord t.mem 0xFFFE ∧
      (∀ n, ¬s.trapBytes n → t.mem.read n = s.mem.read n) ∧ s.sameIo t ∧ s.sameRequests t

/-- R204: an instruction of PRIV_SET with P = 0 raises PrivilegeViolation and performs nothing of itself. PRIV_SET is at
its default, IN, OUT, EI, DI and HALT (decision D17, log 18). -/
def Obligations.PrivilegedInUserModeTraps : Prop :=
  ∀ (s : State) (rd : Reg) (p : Port), s.flag.p = false →
    ∀ i ∈ [.inp rd p, .out rd p, .ei, .di, .halt], exec i s = raiseExc s .privilegeViolation

/-! ## Frames -/

/-- Instructions that write registers and flags only: a next state is that of a trap, or nothing but the destination (for
MULL and DIVL both registers; for CMP none), V, C, S, Z and PC has changed; LD and LD Rd,FLAG keep the flags
(10_state.md section 3, 30_encoding.md section 3). -/
def Obligations.RegisterInstructionFrame : Prop :=
  ∀ (s t : State) (rd : Reg) (m : Src) (i : Instr), exec i s = .next t →
    (i ∈ [.ld rd m, .ldFlag rd] → tookTrap s t ∨ s.keepsFlag t (namedReg (resolve s rd))) ∧
      (i ∈ [.add rd m, .sub rd m, .and rd m, .or rd m, .xor rd m, .adds rd m, .mul rd m, .div rd m, .mod rd m,
        .shla rd m, .shll rd m, .shra rd m, .shrl rd m] →
        tookTrap s t ∨ s.changesOnly t (namedReg (resolve s rd))) ∧
      (i ∈ [.mull rd m, .divl rd m] → tookTrap s t ∨ s.changesOnly t (namedPair (pairOf rd))) ∧
      (i = .cmp rd m → tookTrap s t ∨ s.changesOnly t [])

/-- Control flow: the jumps and NO change PC alone, RET the stack pointer of the mode besides, RETI that and FLAG (E and P
only in privileged mode), EI and DI the bit E, HALT the halted bit; or the trap was taken. -/
def Obligations.ControlInstructionFrame : Prop :=
  ∀ (s t : State) (tg : Target) (i : Instr), exec i s = .next t →
    (i ∈ [.no, .jz tg, .jc tg, .jm tg, .jo tg, .jgt tg, .jge tg, .jle tg, .jlt tg, .jnz tg, .jnc tg, .jnm tg,
      .jno tg, .jhi tg, .jls tg, .jmp tg] → s.keepsFlag t []) ∧
      (i = .ret → tookTrap s t ∨ s.keepsFlag t [spOf s]) ∧
      (i = .reti → tookTrap s t ∨ (s.sameRegsBut t [spOf s] ∧ s.sameMemory t ∧ s.sameIo t ∧ s.sameRequests t ∧
        (s.flag.p = false → s.sameMode t))) ∧
      (i ∈ [.ei, .di] → tookTrap s t ∨ (s.sameRegsBut t [] ∧ s.sameMemory t ∧ s.sameArith t ∧
        t.flag.p = s.flag.p ∧ s.sameIo t ∧ s.sameRequests t)) ∧
      (i = .halt → tookTrap s t ∨ (s.sameRegsBut t [] ∧ s.sameMemory t ∧ t.flag = s.flag ∧ s.sameIo t ∧
        t.pending = s.pending ∧ t.arrivals = s.arrivals)) ∧
      (i = .svc → tookTrap s t)

/-- Stores and the stack: ST writes the bytes of its width at its effective address and no register; PUSH and CALL the
word at SP - 2 and SP; POP its register and SP and no memory; or the trap was taken. -/
def Obligations.StoreAndStackFrame : Prop :=
  ∀ (s t : State) (rd : Reg) (l : Loc) (tg : Target) (i : Instr), exec i s = .next t →
    let system : Prop := s.sameArith t ∧ s.sameSystem t
    (i = .st rd l → tookTrap s t ∨ (system ∧ s.sameRegsBut t [] ∧
      ∀ a, locAddr s l = .ok a → ∀ n, ¬inStore a (Loc.width l) n → t.mem.read n = s.mem.read n)) ∧
      (i ∈ [.push rd, .call tg] → tookTrap s t ∨ (system ∧ s.sameRegsBut t [spOf s] ∧
        ∀ n, ¬inWord (s.regs.get (spOf s) - 2) n → t.mem.read n = s.mem.read n)) ∧
      (i = .pop rd → tookTrap s t ∨ (system ∧ s.sameRegsBut t (spOf s :: namedReg (resolve s rd)) ∧
        s.sameMemory t))

/-- Input and output: IN changes its register and the device registers, OUT no register; neither changes memory, FLAG,
halted, the pending bits or the board's mode, IN neither the limits nor the history; or the trap was taken. -/
def Obligations.InputOutputFrame : Prop :=
  ∀ (s t : State) (rd : Reg) (p : Port),
    (exec (.inp rd p) s = .next t → tookTrap s t ∨ (s.sameRegsBut t (namedReg (resolve s rd)) ∧
      s.sameMemory t ∧ t.flag = s.flag ∧ s.sameRequests t ∧ s.sameLimits t ∧ t.outputs = s.outputs ∧
      t.dev.mode = s.dev.mode)) ∧
      (exec (.out rd p) s = .next t → tookTrap s t ∨ (s.sameRegsBut t [] ∧ s.sameMemory t ∧ t.flag = s.flag ∧
        s.sameRequests t ∧ t.protectRule = s.protectRule ∧ t.dev.mode = s.dev.mode))

/-! ## Invariants and the whole machine -/

/-- Every step from every state keeps the canonical form of memory. -/
def Obligations.StepKeepsCanonicalMemory : Prop :=
  ∀ s t : State, s.Inv → step s = .next t → t.Inv

/-- The memory after reset is canonical. -/
def Obligations.ResetMemoryIsCanonical : Prop := State.reset.Inv

/-- What reset fixes: PC at the IPL entry, privileged, interrupts disabled, not halted, nothing pending, RN4020-Cmd 0001;
and the first thing a step from reset does is fetch at F000h (70_reset_and_hazards.md section 1, 10_state.md section 6;
decision D23, log 24). -/
def Obligations.ResetValues : Prop :=
  State.reset.pc = 0xF000 ∧ State.reset.flag.p = true ∧ State.reset.flag.e = false ∧
    State.reset.halted = false ∧ State.reset.pending = 0 ∧ State.reset.dev.rnCmd = 1 ∧ State.reset.executes

/-- No step changes a byte of the IPL ROM (20_memory.md section 6; decision D27, log 30). -/
def Obligations.StepKeepsRom : Prop :=
  ∀ (s t : State) (n : Nat), romByte n → step s = .next t → t.mem.read n = s.mem.read n

/-- In user mode a step that takes no trap and accepts no interrupt changes neither E nor P, nor SSP, the limits, the
devices, the history or the halted bit, nor any byte that the limits let no write reach, whatever check of the limits the
machine has (60_exceptions.md section 6; PRIV_SET and RETI_USER at their defaults, decision D17, log 18, 29). -/
def Obligations.UserStepIsConfined : Prop :=
  ∀ s t : State, s.flag.p = false → step s = .next t →
    tookTrap (deliver s) t ∨ (∃ k, acceptInterrupt (deliver s) k = .next t) ∨
      (s.sameProtected t ∧ ∀ n, ¬s.reaches .write n → t.mem.read n = s.mem.read n)

/-- User-mode code learns nothing of SSP, of memory that the limits let no fetch and no read reach, of the history or of
the device registers: two states that differ only there step alike as long as no trap is taken, whatever check of the
limits the machine has (60_exceptions.md section 6, 20_memory.md section 7; decision D17, log 18, 29). -/
def Obligations.UserStepLearnsNothing : Prop :=
  ∀ s s' t : State, s.Inv → s'.Inv → s.flag.p = false → s.sameForUser s' → step s = .next t → t.flag.p = false →
    ∃ t', step s' = .next t' ∧ t.sameForUser t'

/-- Privileged mode is entered only by a trap, of an exception or an interrupt, and left only by a RETI whose popped FLAG
word has bit 6 clear (60_exceptions.md section 6; RETI_USER and trap entry are decisions D17, D18, log 18, 19). -/
def Obligations.ModeChanges : Prop :=
  ∀ s t : State, step s = .next t →
    (s.flag.p = false → t.flag.p = true →
      tookTrap (deliver s) t ∨ ∃ k, acceptInterrupt (deliver s) k = .next t) ∧
      (s.flag.p = true → t.flag.p = false →
        s.executes ∧ loadWord s.mem s.pc = 0xD400 ∧ (loadWord s.mem s.regs.ssp).getLsbD 6 = false)

/-- The history of OUTs only grows, by at most one entry a step, and only in privileged mode (60_exceptions.md section 7;
PRIV_SET at its default, decisions D17, D34, log 18, 36). -/
def Obligations.HistoryOnlyGrows : Prop :=
  ∀ s t : State, step s = .next t →
    ∃ l : List IoWrite, t.outputs = s.outputs ++ l ∧ l.length ≤ 1 ∧ (s.flag.p = false → l = [])
end

