-- ==== Sys2Proof/Laws/Compute.lean ====
section
/-!
SUPPORT. The computed results of the multiply and divide group as 42_mul_div.md writes them: one choice on
`Config.divSigned`. The model asks the parameter only where the two readings differ; these lemmas say that nothing is
lost by that. And what the end of a shift can do.
-/

namespace Sys2Proof.Machine

theorem bySign_eq {agree : Bool} {u v : α} (h : agree = true → u = v) :
    bySign agree u v = if Config.divSigned then v else u := by
  unfold bySign
  split
  · next ha => simp [h ha]
  · rfl

theorem nonNegative_iff (a b : Word) :
    nonNegative a b = true ↔ a.toNat < 32768 ∧ b.toNat < 32768 := by
  simp [nonNegative, BitVec.msb_eq_decide]

theorem toInt_of_lt {a : Word} (h : a.toNat < 32768) : a.toInt = a.toNat := by
  rw [BitVec.toInt_eq_toNat_of_lt (by omega)]

/-- DIV's quotient as 42_mul_div.md R142 writes it. -/
theorem quotient_eq (a b f : Word) :
    quotient a b f = if Config.divSigned then signedQuotient a b f else unsignedQuotient a b := by
  refine bySign_eq fun h => ?_
  rw [nonNegative_iff] at h
  have ha : ¬(a = 0x8000 ∧ b = 0xFFFF) := by
    rintro ⟨rfl, -⟩; simp at h
  rw [signedQuotient, if_neg ha, unsignedQuotient, toInt_of_lt h.1, toInt_of_lt h.2]
  rfl

/-- MOD's remainder as 42_mul_div.md R143 writes it. -/
theorem remainder_eq (a b : Word) :
    remainder a b = if Config.divSigned then signedRemainder a b else unsignedRemainder a b := by
  refine bySign_eq fun h => ?_
  rw [nonNegative_iff] at h
  rw [signedRemainder, unsignedRemainder, toInt_of_lt h.1, toInt_of_lt h.2]
  rfl

/-- MULL's product as 42_mul_div.md R144 writes it. -/
theorem product_eq (a b : Word) :
    product a b = if Config.divSigned then signedProduct a b else unsignedProduct a b := by
  refine bySign_eq fun h => ?_
  rw [nonNegative_iff] at h
  rw [signedProduct, unsignedProduct, toInt_of_lt h.1, toInt_of_lt h.2]
  rfl

/-- DIVL's results as 42_mul_div.md R145 writes them. -/
theorem longDivide_eq (n : BitVec 32) (b : Word) :
    longDivide n b = if Config.divSigned then signedLong n b else unsignedLong n b := by
  refine bySign_eq fun h => ?_
  simp only [Bool.and_eq_true, Bool.or_eq_true, Bool.not_eq_true', decide_eq_true_eq, BitVec.msb_eq_decide,
    decide_eq_false_iff_not] at h
  have hn : n.toInt = n.toNat := by rw [BitVec.toInt_eq_toNat_of_lt (by omega)]
  have hb : b.toInt = b.toNat := toInt_of_lt (by omega)
  have hq : (n.toNat : Int).tdiv (b.toNat : Int) = ((n.toNat / b.toNat : Nat) : Int) := rfl
  have hr : (n.toNat : Int).tmod (b.toNat : Int) = ((n.toNat % b.toNat : Nat) : Int) := rfl
  rw [unsignedLong, signedLong, hn, hb, hq, hr]
  obtain ⟨-, h⟩ := h
  generalize n.toNat / b.toNat = q at h
  rcases h with h | h
  · rw [if_pos (by omega : q < 65536), if_pos (by omega : (-32768 : Int) ≤ (q : Int) ∧ (q : Int) ≤ 32767)]
    rfl
  · rw [if_neg (by omega : ¬q < 65536), if_neg (by omega : ¬((-32768 : Int) ≤ (q : Int) ∧ (q : Int) ≤ 32767))]

/-- A shift that completes had a count of at most 15 (43_shift.md R150). -/
theorem finishShift_eq_ok {s t : State} {o : Operands} {r : Word} {m : Src} :
    finishShift s o r m = .ok t ↔
      o.b.toNat ≤ 15 ∧ t = finish s.afterDraw o.dst r (shiftFlags r s.drawn.flags) m := by
  unfold finishShift
  split
  · next h => simp; omega
  · next h => simp [eq_comm]; omega

end Sys2Proof.Machine
end

