-- ==== Sys2Proof/Laws/Memory.lean ====
section
/-!
SUPPORT. The laws of memory: reading after writing, and the canonical form that every write keeps.
-/

namespace Sys2Proof.Machine

/-! ## Bytes -/

theorem Memory.wfFrom_cons {k lo : Nat} {b : Byte} {m : Memory} :
    Memory.wfFrom ((k, b) :: m) lo = true ↔
      lo ≤ k ∧ k < 65536 ∧ b ≠ unlistedByte ∧ m.wfFrom (k + 1) = true := by
  simp [Memory.wfFrom, and_assoc]

theorem Memory.wfFrom_mono {m : Memory} {lo lo' : Nat} (h : m.wfFrom lo = true) (hl : lo' ≤ lo) :
    m.wfFrom lo' = true := by
  cases m with
  | nil => rfl
  | cons c m =>
    obtain ⟨k, b⟩ := c
    rw [Memory.wfFrom_cons] at h ⊢
    exact ⟨hl.trans h.1, h.2⟩

/-- Below its least address a canonical memory reads as unlisted. -/
theorem Memory.read_of_lt {m : Memory} {lo a : Nat} (h : m.wfFrom lo = true) (ha : a < lo) :
    m.read a = unlistedByte := by
  induction m generalizing lo with
  | nil => rfl
  | cons c m ih =>
    obtain ⟨k, b⟩ := c
    rw [Memory.wfFrom_cons] at h
    have hne : k ≠ a := by omega
    simp only [Memory.read, hne, if_false]
    exact ih h.2.2.2 (by omega)

/-- A write keeps the canonical form. -/
theorem Memory.write_wfFrom {m : Memory} {lo a : Nat} (x : Byte) (h : m.wfFrom lo = true) (hl : lo ≤ a)
    (ha : a < 65536) : (m.write a x).wfFrom lo = true := by
  induction m generalizing lo with
  | nil =>
    simp only [Memory.write]
    split
    · rfl
    · next hx => exact Memory.wfFrom_cons.2 ⟨hl, ha, hx, rfl⟩
  | cons c m ih =>
    obtain ⟨k, b⟩ := c
    have h' := Memory.wfFrom_cons.1 h
    simp only [Memory.write]
    split
    · next hlt =>
      split
      · exact h
      · next hx =>
        exact Memory.wfFrom_cons.2 ⟨hl, ha, hx, Memory.wfFrom_cons.2 ⟨by omega, h'.2⟩⟩
    · split
      · next heq =>
        split
        · exact Memory.wfFrom_mono h'.2.2.2 (by omega)
        · next hx => exact Memory.wfFrom_cons.2 ⟨hl, ha, hx, heq ▸ h'.2.2.2⟩
      · exact Memory.wfFrom_cons.2 ⟨h'.1, h'.2.1, h'.2.2.1, ih h'.2.2.2 (by omega)⟩

theorem Memory.write_wf {m : Memory} {a : Nat} (x : Byte) (h : m.wf = true) (ha : a < 65536) :
    (m.write a x).wf = true :=
  Memory.write_wfFrom x h (Nat.zero_le a) ha

/-- A write leaves every other address alone, in any memory. -/
theorem Memory.read_write_of_ne (m : Memory) {a n : Nat} (x : Byte) (h : n ≠ a) :
    (m.write a x).read n = m.read n := by
  induction m with
  | nil =>
    simp only [Memory.write]
    split
    · rfl
    · simp [Memory.read, h.symm]
  | cons c m ih =>
    obtain ⟨k, b⟩ := c
    simp only [Memory.write]
    split
    · split
      · rfl
      · simp [Memory.read, h.symm]
    · split
      · next heq =>
        subst heq
        split <;> simp [Memory.read, h.symm]
      · simp only [Memory.read, ih]

/-- A read after a write to the same address gives the value written, in a canonical memory. -/
theorem Memory.read_write_same {m : Memory} {lo : Nat} (a : Nat) (x : Byte) (h : m.wfFrom lo = true) :
    (m.write a x).read a = x := by
  induction m generalizing lo with
  | nil =>
    simp only [Memory.write]
    split
    · next hx => exact hx.symm
    · simp [Memory.read]
  | cons c m ih =>
    obtain ⟨k, b⟩ := c
    have h' := Memory.wfFrom_cons.1 h
    simp only [Memory.write]
    split
    · next hlt =>
      split
      · next hx =>
        rw [hx]
        exact Memory.read_of_lt (Memory.wfFrom_cons.2 ⟨Nat.le_refl k, h'.2⟩) hlt
      · simp [Memory.read]
    · split
      · next heq =>
        subst heq
        split
        · next hx => rw [hx]; exact Memory.read_of_lt h'.2.2.2 (by omega)
        · simp [Memory.read]
      · next hne =>
        simp only [Memory.read, if_neg (Ne.symm hne)]
        exact ih h'.2.2.2

theorem Memory.read_write {m : Memory} (h : m.wf = true) (a n : Nat) (x : Byte) :
    (m.write a x).read n = if n = a then x else m.read n := by
  split
  · next hn => subst hn; exact Memory.read_write_same n x h
  · next hn => exact Memory.read_write_of_ne m x hn

/-- Canonical memories from one least address on that read alike are equal: equal memories are equal data. -/
theorem Memory.eq_of_read {m k : Memory} {lo : Nat} (hm : m.wfFrom lo = true) (hk : k.wfFrom lo = true)
    (h : ∀ n, m.read n = k.read n) : m = k := by
  induction m generalizing k lo with
  | nil =>
    cases k with
    | nil => rfl
    | cons d k =>
      obtain ⟨a, b⟩ := d
      have hk' := Memory.wfFrom_cons.1 hk
      have := h a
      simp [Memory.read] at this
      exact absurd this.symm hk'.2.2.1
  | cons c m ih =>
    obtain ⟨a, b⟩ := c
    have hm' := Memory.wfFrom_cons.1 hm
    cases k with
    | nil =>
      have := h a
      simp [Memory.read] at this
      exact absurd this hm'.2.2.1
    | cons d k =>
      obtain ⟨a', b'⟩ := d
      have hk' := Memory.wfFrom_cons.1 hk
      have haa : a = a' := by
        rcases Nat.lt_trichotomy a a' with hlt | heq | hgt
        · have := h a
          rw [Memory.read_of_lt (Memory.wfFrom_cons.2 ⟨Nat.le_refl a', hk'.2⟩) hlt] at this
          simp [Memory.read] at this
          exact absurd this hm'.2.2.1
        · exact heq
        · have := h a'
          rw [Memory.read_of_lt (Memory.wfFrom_cons.2 ⟨Nat.le_refl a, hm'.2⟩) hgt] at this
          simp [Memory.read] at this
          exact absurd this.symm hk'.2.2.1
      subst haa
      have hbb : b = b' := by simpa [Memory.read] using h a
      subst hbb
      have : m = k := by
        refine ih hm'.2.2.2 hk'.2.2.2 fun n => ?_
        rcases Nat.lt_trichotomy n a with hlt | heq | hgt
        · rw [Memory.read_of_lt hm'.2.2.2 (by omega), Memory.read_of_lt hk'.2.2.2 (by omega)]
        · rw [Memory.read_of_lt hm'.2.2.2 (by omega), Memory.read_of_lt hk'.2.2.2 (by omega)]
        · have := h n
          simpa [Memory.read, show a ≠ n by omega] using this
      rw [this]

/-! ## Words -/

theorem joinBytes_hi_lo (w : Word) : joinBytes (hiByte w) (loByte w) = w := by
  apply BitVec.eq_of_getLsbD_eq
  intro i hi
  simp only [joinBytes, hiByte, loByte, BitVec.getLsbD_append, BitVec.getLsbD_extractLsb']
  by_cases h : i < 8
  · simp [h]
  · have : i - 8 < 8 := by omega
    simp [h, this, show 8 + (i - 8) = i by omega]

@[simp] theorem hiByte_joinBytes (h l : Byte) : hiByte (joinBytes h l) = h := by
  apply BitVec.eq_of_getLsbD_eq
  intro i hi
  simp only [joinBytes, hiByte]
  rw [BitVec.getLsbD_extractLsb', BitVec.getLsbD_append]
  simp [hi]

@[simp] theorem loByte_joinBytes (h l : Byte) : loByte (joinBytes h l) = l := by
  apply BitVec.eq_of_getLsbD_eq
  intro i hi
  simp only [joinBytes, loByte]
  rw [BitVec.getLsbD_extractLsb', BitVec.getLsbD_append]
  simp [hi]

/-- The bytes of a word do not lie on one another. -/
theorem toNat_add_one_ne (a : Word) : (a + 1).toNat ≠ a.toNat := by
  intro h
  have : a + 1 = a := BitVec.eq_of_toNat_eq h
  bv_omega

theorem storeWord_wf {m : Memory} (a x : Word) (h : m.wf = true) : (storeWord m a x).wf = true :=
  Memory.write_wf _ (Memory.write_wf _ h a.isLt) (a + 1).isLt

/-- A word store changes the two bytes it names and no others (20_memory.md R54). -/
theorem read_storeWord_of_ne (m : Memory) (a x : Word) {n : Nat} (h : n ≠ a.toNat) (h' : n ≠ (a + 1).toNat) :
    (storeWord m a x).read n = m.read n := by
  simp only [storeWord]
  rw [Memory.read_write_of_ne _ _ h', Memory.read_write_of_ne _ _ h]

theorem read_storeWord_hi {m : Memory} (a x : Word) (h : m.wf = true) :
    (storeWord m a x).read a.toNat = hiByte x := by
  simp only [storeWord]
  rw [Memory.read_write_of_ne _ _ (toNat_add_one_ne a).symm, Memory.read_write_same _ _ h]

theorem read_storeWord_lo {m : Memory} (a x : Word) (h : m.wf = true) :
    (storeWord m a x).read (a + 1).toNat = loByte x := by
  simp only [storeWord]
  rw [Memory.read_write_same _ _ (Memory.write_wf _ h a.isLt)]

/-- A word load after a word store to the same address gives the word stored. -/
theorem loadWord_storeWord_same {m : Memory} (a x : Word) (h : m.wf = true) :
    loadWord (storeWord m a x) a = x := by
  rw [loadWord, read_storeWord_hi a x h, read_storeWord_lo a x h, joinBytes_hi_lo]

/-- A word load after a store to another word. -/
theorem loadWord_storeWord_of_ne (m : Memory) (a b x : Word) (h : b ≠ a) (h1 : b ≠ a + 1) (h2 : b + 1 ≠ a) :
    loadWord (storeWord m a x) b = loadWord m b := by
  have toNat_ne {u v : Word} (huv : u ≠ v) : u.toNat ≠ v.toNat := fun e => huv (BitVec.eq_of_toNat_eq e)
  have h3 : b + 1 ≠ a + 1 := fun e => h (by bv_omega)
  rw [loadWord, read_storeWord_of_ne m a x (toNat_ne h) (toNat_ne h1),
    read_storeWord_of_ne m a x (toNat_ne h2) (toNat_ne h3), loadWord]

/-- Both pushes of a trap entry keep the canonical form. -/
theorem trapMemory_wf {s : State} (x : Word) (h : s.mem.wf = true) : (trapMemory s x).wf = true :=
  storeWord_wf _ _ (storeWord_wf _ _ h)

end Sys2Proof.Machine
end

