-- ==== Sys2Proof/Laws/State.lean ====
section
/-!
SUPPORT. One lemma per field per update of the state, and the laws of the register file.
-/

namespace Sys2Proof.Machine

/-! ## Fields after an update -/

@[simp] theorem State.setReg_regs (s : State) (p : Phys) (x : Word) : (s.setReg p x).regs = s.regs.set p x := rfl
@[simp] theorem State.setReg_pc (s : State) (p : Phys) (x : Word) : (s.setReg p x).pc = s.pc := rfl
@[simp] theorem State.setReg_flag (s : State) (p : Phys) (x : Word) : (s.setReg p x).flag = s.flag := rfl
@[simp] theorem State.setReg_halted (s : State) (p : Phys) (x : Word) : (s.setReg p x).halted = s.halted := rfl
@[simp] theorem State.setReg_pending (s : State) (p : Phys) (x : Word) : (s.setReg p x).pending = s.pending := rfl
@[simp] theorem State.setReg_limitLo (s : State) (p : Phys) (x : Word) : (s.setReg p x).limitLo = s.limitLo := rfl
@[simp] theorem State.setReg_limitHi (s : State) (p : Phys) (x : Word) : (s.setReg p x).limitHi = s.limitHi := rfl
@[simp] theorem State.setReg_protectRule (s : State) (p : Phys) (x : Word) : (s.setReg p x).protectRule = s.protectRule := rfl
@[simp] theorem State.setReg_dev (s : State) (p : Phys) (x : Word) : (s.setReg p x).dev = s.dev := rfl
@[simp] theorem State.setReg_outputs (s : State) (p : Phys) (x : Word) : (s.setReg p x).outputs = s.outputs := rfl
@[simp] theorem State.setReg_mem (s : State) (p : Phys) (x : Word) : (s.setReg p x).mem = s.mem := rfl
@[simp] theorem State.setReg_arrivals (s : State) (p : Phys) (x : Word) : (s.setReg p x).arrivals = s.arrivals := rfl
@[simp] theorem State.setReg_free (s : State) (p : Phys) (x : Word) : (s.setReg p x).free = s.free := rfl
@[simp] theorem State.setReg_draws (s : State) (p : Phys) (x : Word) : (s.setReg p x).draws = s.draws := rfl

@[simp] theorem State.goto_regs (s : State) (a : Word) : (s.goto a).regs = s.regs := rfl
@[simp] theorem State.goto_pc (s : State) (a : Word) : (s.goto a).pc = a := rfl
@[simp] theorem State.goto_flag (s : State) (a : Word) : (s.goto a).flag = s.flag := rfl
@[simp] theorem State.goto_halted (s : State) (a : Word) : (s.goto a).halted = s.halted := rfl
@[simp] theorem State.goto_pending (s : State) (a : Word) : (s.goto a).pending = s.pending := rfl
@[simp] theorem State.goto_limitLo (s : State) (a : Word) : (s.goto a).limitLo = s.limitLo := rfl
@[simp] theorem State.goto_limitHi (s : State) (a : Word) : (s.goto a).limitHi = s.limitHi := rfl
@[simp] theorem State.goto_protectRule (s : State) (a : Word) : (s.goto a).protectRule = s.protectRule := rfl
@[simp] theorem State.goto_dev (s : State) (a : Word) : (s.goto a).dev = s.dev := rfl
@[simp] theorem State.goto_outputs (s : State) (a : Word) : (s.goto a).outputs = s.outputs := rfl
@[simp] theorem State.goto_mem (s : State) (a : Word) : (s.goto a).mem = s.mem := rfl
@[simp] theorem State.goto_arrivals (s : State) (a : Word) : (s.goto a).arrivals = s.arrivals := rfl
@[simp] theorem State.goto_free (s : State) (a : Word) : (s.goto a).free = s.free := rfl
@[simp] theorem State.goto_draws (s : State) (a : Word) : (s.goto a).draws = s.draws := rfl

@[simp] theorem State.setArith_regs (s : State) (f : Arith) : (s.setArith f).regs = s.regs := rfl
@[simp] theorem State.setArith_pc (s : State) (f : Arith) : (s.setArith f).pc = s.pc := rfl
@[simp] theorem State.setArith_flag (s : State) (f : Arith) : (s.setArith f).flag = { s.flag with v := f.v, c := f.c, s := f.s, z := f.z } := rfl
@[simp] theorem State.setArith_halted (s : State) (f : Arith) : (s.setArith f).halted = s.halted := rfl
@[simp] theorem State.setArith_pending (s : State) (f : Arith) : (s.setArith f).pending = s.pending := rfl
@[simp] theorem State.setArith_limitLo (s : State) (f : Arith) : (s.setArith f).limitLo = s.limitLo := rfl
@[simp] theorem State.setArith_limitHi (s : State) (f : Arith) : (s.setArith f).limitHi = s.limitHi := rfl
@[simp] theorem State.setArith_protectRule (s : State) (f : Arith) : (s.setArith f).protectRule = s.protectRule := rfl
@[simp] theorem State.setArith_dev (s : State) (f : Arith) : (s.setArith f).dev = s.dev := rfl
@[simp] theorem State.setArith_outputs (s : State) (f : Arith) : (s.setArith f).outputs = s.outputs := rfl
@[simp] theorem State.setArith_mem (s : State) (f : Arith) : (s.setArith f).mem = s.mem := rfl
@[simp] theorem State.setArith_arrivals (s : State) (f : Arith) : (s.setArith f).arrivals = s.arrivals := rfl
@[simp] theorem State.setArith_free (s : State) (f : Arith) : (s.setArith f).free = s.free := rfl
@[simp] theorem State.setArith_draws (s : State) (f : Arith) : (s.setArith f).draws = s.draws := rfl

@[simp] theorem State.setE_regs (s : State) (b : Bool) : (s.setE b).regs = s.regs := rfl
@[simp] theorem State.setE_pc (s : State) (b : Bool) : (s.setE b).pc = s.pc := rfl
@[simp] theorem State.setE_flag (s : State) (b : Bool) : (s.setE b).flag = { s.flag with e := b } := rfl
@[simp] theorem State.setE_halted (s : State) (b : Bool) : (s.setE b).halted = s.halted := rfl
@[simp] theorem State.setE_pending (s : State) (b : Bool) : (s.setE b).pending = s.pending := rfl
@[simp] theorem State.setE_limitLo (s : State) (b : Bool) : (s.setE b).limitLo = s.limitLo := rfl
@[simp] theorem State.setE_limitHi (s : State) (b : Bool) : (s.setE b).limitHi = s.limitHi := rfl
@[simp] theorem State.setE_protectRule (s : State) (b : Bool) : (s.setE b).protectRule = s.protectRule := rfl
@[simp] theorem State.setE_dev (s : State) (b : Bool) : (s.setE b).dev = s.dev := rfl
@[simp] theorem State.setE_outputs (s : State) (b : Bool) : (s.setE b).outputs = s.outputs := rfl
@[simp] theorem State.setE_mem (s : State) (b : Bool) : (s.setE b).mem = s.mem := rfl
@[simp] theorem State.setE_arrivals (s : State) (b : Bool) : (s.setE b).arrivals = s.arrivals := rfl
@[simp] theorem State.setE_free (s : State) (b : Bool) : (s.setE b).free = s.free := rfl
@[simp] theorem State.setE_draws (s : State) (b : Bool) : (s.setE b).draws = s.draws := rfl

@[simp] theorem State.setFlag_regs (s : State) (f : Flag) : (s.setFlag f).regs = s.regs := rfl
@[simp] theorem State.setFlag_pc (s : State) (f : Flag) : (s.setFlag f).pc = s.pc := rfl
@[simp] theorem State.setFlag_flag (s : State) (f : Flag) : (s.setFlag f).flag = f := rfl
@[simp] theorem State.setFlag_halted (s : State) (f : Flag) : (s.setFlag f).halted = s.halted := rfl
@[simp] theorem State.setFlag_pending (s : State) (f : Flag) : (s.setFlag f).pending = s.pending := rfl
@[simp] theorem State.setFlag_limitLo (s : State) (f : Flag) : (s.setFlag f).limitLo = s.limitLo := rfl
@[simp] theorem State.setFlag_limitHi (s : State) (f : Flag) : (s.setFlag f).limitHi = s.limitHi := rfl
@[simp] theorem State.setFlag_protectRule (s : State) (f : Flag) : (s.setFlag f).protectRule = s.protectRule := rfl
@[simp] theorem State.setFlag_dev (s : State) (f : Flag) : (s.setFlag f).dev = s.dev := rfl
@[simp] theorem State.setFlag_outputs (s : State) (f : Flag) : (s.setFlag f).outputs = s.outputs := rfl
@[simp] theorem State.setFlag_mem (s : State) (f : Flag) : (s.setFlag f).mem = s.mem := rfl
@[simp] theorem State.setFlag_arrivals (s : State) (f : Flag) : (s.setFlag f).arrivals = s.arrivals := rfl
@[simp] theorem State.setFlag_free (s : State) (f : Flag) : (s.setFlag f).free = s.free := rfl
@[simp] theorem State.setFlag_draws (s : State) (f : Flag) : (s.setFlag f).draws = s.draws := rfl

@[simp] theorem State.setHalted_regs (s : State) (b : Bool) : (s.setHalted b).regs = s.regs := rfl
@[simp] theorem State.setHalted_pc (s : State) (b : Bool) : (s.setHalted b).pc = s.pc := rfl
@[simp] theorem State.setHalted_flag (s : State) (b : Bool) : (s.setHalted b).flag = s.flag := rfl
@[simp] theorem State.setHalted_halted (s : State) (b : Bool) : (s.setHalted b).halted = b := rfl
@[simp] theorem State.setHalted_pending (s : State) (b : Bool) : (s.setHalted b).pending = s.pending := rfl
@[simp] theorem State.setHalted_limitLo (s : State) (b : Bool) : (s.setHalted b).limitLo = s.limitLo := rfl
@[simp] theorem State.setHalted_limitHi (s : State) (b : Bool) : (s.setHalted b).limitHi = s.limitHi := rfl
@[simp] theorem State.setHalted_protectRule (s : State) (b : Bool) : (s.setHalted b).protectRule = s.protectRule := rfl
@[simp] theorem State.setHalted_dev (s : State) (b : Bool) : (s.setHalted b).dev = s.dev := rfl
@[simp] theorem State.setHalted_outputs (s : State) (b : Bool) : (s.setHalted b).outputs = s.outputs := rfl
@[simp] theorem State.setHalted_mem (s : State) (b : Bool) : (s.setHalted b).mem = s.mem := rfl
@[simp] theorem State.setHalted_arrivals (s : State) (b : Bool) : (s.setHalted b).arrivals = s.arrivals := rfl
@[simp] theorem State.setHalted_free (s : State) (b : Bool) : (s.setHalted b).free = s.free := rfl
@[simp] theorem State.setHalted_draws (s : State) (b : Bool) : (s.setHalted b).draws = s.draws := rfl

@[simp] theorem State.setMem_regs (s : State) (m : Memory) : (s.setMem m).regs = s.regs := rfl
@[simp] theorem State.setMem_pc (s : State) (m : Memory) : (s.setMem m).pc = s.pc := rfl
@[simp] theorem State.setMem_flag (s : State) (m : Memory) : (s.setMem m).flag = s.flag := rfl
@[simp] theorem State.setMem_halted (s : State) (m : Memory) : (s.setMem m).halted = s.halted := rfl
@[simp] theorem State.setMem_pending (s : State) (m : Memory) : (s.setMem m).pending = s.pending := rfl
@[simp] theorem State.setMem_limitLo (s : State) (m : Memory) : (s.setMem m).limitLo = s.limitLo := rfl
@[simp] theorem State.setMem_limitHi (s : State) (m : Memory) : (s.setMem m).limitHi = s.limitHi := rfl
@[simp] theorem State.setMem_protectRule (s : State) (m : Memory) : (s.setMem m).protectRule = s.protectRule := rfl
@[simp] theorem State.setMem_dev (s : State) (m : Memory) : (s.setMem m).dev = s.dev := rfl
@[simp] theorem State.setMem_outputs (s : State) (m : Memory) : (s.setMem m).outputs = s.outputs := rfl
@[simp] theorem State.setMem_mem (s : State) (m : Memory) : (s.setMem m).mem = m := rfl
@[simp] theorem State.setMem_arrivals (s : State) (m : Memory) : (s.setMem m).arrivals = s.arrivals := rfl
@[simp] theorem State.setMem_free (s : State) (m : Memory) : (s.setMem m).free = s.free := rfl
@[simp] theorem State.setMem_draws (s : State) (m : Memory) : (s.setMem m).draws = s.draws := rfl

@[simp] theorem State.afterDraw_regs (s : State) : (s.afterDraw).regs = s.regs := rfl
@[simp] theorem State.afterDraw_pc (s : State) : (s.afterDraw).pc = s.pc := rfl
@[simp] theorem State.afterDraw_flag (s : State) : (s.afterDraw).flag = s.flag := rfl
@[simp] theorem State.afterDraw_halted (s : State) : (s.afterDraw).halted = s.halted := rfl
@[simp] theorem State.afterDraw_pending (s : State) : (s.afterDraw).pending = s.pending := rfl
@[simp] theorem State.afterDraw_limitLo (s : State) : (s.afterDraw).limitLo = s.limitLo := rfl
@[simp] theorem State.afterDraw_limitHi (s : State) : (s.afterDraw).limitHi = s.limitHi := rfl
@[simp] theorem State.afterDraw_protectRule (s : State) : (s.afterDraw).protectRule = s.protectRule := rfl
@[simp] theorem State.afterDraw_dev (s : State) : (s.afterDraw).dev = s.dev := rfl
@[simp] theorem State.afterDraw_outputs (s : State) : (s.afterDraw).outputs = s.outputs := rfl
@[simp] theorem State.afterDraw_mem (s : State) : (s.afterDraw).mem = s.mem := rfl
@[simp] theorem State.afterDraw_arrivals (s : State) : (s.afterDraw).arrivals = s.arrivals := rfl
@[simp] theorem State.afterDraw_free (s : State) : (s.afterDraw).free = s.free.tail := rfl
@[simp] theorem State.afterDraw_draws (s : State) : (s.afterDraw).draws = s.draws + 1 := rfl

/-! ## The end of a two-operand instruction -/

@[simp] theorem finish_regs (s : State) (d : Phys) (r : Word) (f : Arith) (m : Src) :
    (finish s d r f m).regs = s.regs.set d r := rfl
@[simp] theorem finish_pc (s : State) (d : Phys) (r : Word) (f : Arith) (m : Src) :
    (finish s d r f m).pc = npc s m.extraWords := rfl
@[simp] theorem finish_flag (s : State) (d : Phys) (r : Word) (f : Arith) (m : Src) :
    (finish s d r f m).flag = { s.flag with v := f.v, c := f.c, s := f.s, z := f.z } := rfl
@[simp] theorem finish_halted (s : State) (d : Phys) (r : Word) (f : Arith) (m : Src) :
    (finish s d r f m).halted = s.halted := rfl
@[simp] theorem finish_pending (s : State) (d : Phys) (r : Word) (f : Arith) (m : Src) :
    (finish s d r f m).pending = s.pending := rfl
@[simp] theorem finish_limitLo (s : State) (d : Phys) (r : Word) (f : Arith) (m : Src) :
    (finish s d r f m).limitLo = s.limitLo := rfl
@[simp] theorem finish_limitHi (s : State) (d : Phys) (r : Word) (f : Arith) (m : Src) :
    (finish s d r f m).limitHi = s.limitHi := rfl
@[simp] theorem finish_protectRule (s : State) (d : Phys) (r : Word) (f : Arith) (m : Src) :
    (finish s d r f m).protectRule = s.protectRule := rfl
@[simp] theorem finish_dev (s : State) (d : Phys) (r : Word) (f : Arith) (m : Src) :
    (finish s d r f m).dev = s.dev := rfl
@[simp] theorem finish_outputs (s : State) (d : Phys) (r : Word) (f : Arith) (m : Src) :
    (finish s d r f m).outputs = s.outputs := rfl
@[simp] theorem finish_mem (s : State) (d : Phys) (r : Word) (f : Arith) (m : Src) :
    (finish s d r f m).mem = s.mem := rfl
@[simp] theorem finish_arrivals (s : State) (d : Phys) (r : Word) (f : Arith) (m : Src) :
    (finish s d r f m).arrivals = s.arrivals := rfl
@[simp] theorem finish_free (s : State) (d : Phys) (r : Word) (f : Arith) (m : Src) :
    (finish s d r f m).free = s.free := rfl
@[simp] theorem finish_draws (s : State) (d : Phys) (r : Word) (f : Arith) (m : Src) :
    (finish s d r f m).draws = s.draws := rfl

@[simp] theorem finishPair_regs (s : State) (o : PairOperands) (lo hi : Word) (f : Arith) (m : Src) :
    (finishPair s o lo hi f m).regs = (s.regs.set o.lo lo).set o.hi hi := rfl
@[simp] theorem finishPair_pc (s : State) (o : PairOperands) (lo hi : Word) (f : Arith) (m : Src) :
    (finishPair s o lo hi f m).pc = npc s m.extraWords := rfl
@[simp] theorem finishPair_flag (s : State) (o : PairOperands) (lo hi : Word) (f : Arith) (m : Src) :
    (finishPair s o lo hi f m).flag = { s.flag with v := f.v, c := f.c, s := f.s, z := f.z } := rfl
@[simp] theorem finishPair_halted (s : State) (o : PairOperands) (lo hi : Word) (f : Arith) (m : Src) :
    (finishPair s o lo hi f m).halted = s.halted := rfl
@[simp] theorem finishPair_pending (s : State) (o : PairOperands) (lo hi : Word) (f : Arith) (m : Src) :
    (finishPair s o lo hi f m).pending = s.pending := rfl
@[simp] theorem finishPair_limitLo (s : State) (o : PairOperands) (lo hi : Word) (f : Arith) (m : Src) :
    (finishPair s o lo hi f m).limitLo = s.limitLo := rfl
@[simp] theorem finishPair_limitHi (s : State) (o : PairOperands) (lo hi : Word) (f : Arith) (m : Src) :
    (finishPair s o lo hi f m).limitHi = s.limitHi := rfl
@[simp] theorem finishPair_protectRule (s : State) (o : PairOperands) (lo hi : Word) (f : Arith) (m : Src) :
    (finishPair s o lo hi f m).protectRule = s.protectRule := rfl
@[simp] theorem finishPair_dev (s : State) (o : PairOperands) (lo hi : Word) (f : Arith) (m : Src) :
    (finishPair s o lo hi f m).dev = s.dev := rfl
@[simp] theorem finishPair_outputs (s : State) (o : PairOperands) (lo hi : Word) (f : Arith) (m : Src) :
    (finishPair s o lo hi f m).outputs = s.outputs := rfl
@[simp] theorem finishPair_mem (s : State) (o : PairOperands) (lo hi : Word) (f : Arith) (m : Src) :
    (finishPair s o lo hi f m).mem = s.mem := rfl
@[simp] theorem finishPair_arrivals (s : State) (o : PairOperands) (lo hi : Word) (f : Arith) (m : Src) :
    (finishPair s o lo hi f m).arrivals = s.arrivals := rfl
@[simp] theorem finishPair_free (s : State) (o : PairOperands) (lo hi : Word) (f : Arith) (m : Src) :
    (finishPair s o lo hi f m).free = s.free := rfl
@[simp] theorem finishPair_draws (s : State) (o : PairOperands) (lo hi : Word) (f : Arith) (m : Src) :
    (finishPair s o lo hi f m).draws = s.draws := rfl

/-! ## The state a trap entry leaves -/

@[simp] theorem trapState_regs (s : State) (vector saved : Word) :
    (trapState s vector saved).regs = s.regs.set .ssp (s.regs.ssp - 4) := rfl
@[simp] theorem trapState_pc (s : State) (vector saved : Word) :
    (trapState s vector saved).pc = loadWord (trapMemory s saved) vector := rfl
@[simp] theorem trapState_flag (s : State) (vector saved : Word) :
    (trapState s vector saved).flag = { s.flag with p := true, e := false } := rfl
@[simp] theorem trapState_halted (s : State) (vector saved : Word) :
    (trapState s vector saved).halted = s.halted := rfl
@[simp] theorem trapState_pending (s : State) (vector saved : Word) :
    (trapState s vector saved).pending = s.pending := rfl
@[simp] theorem trapState_limitLo (s : State) (vector saved : Word) :
    (trapState s vector saved).limitLo = s.limitLo := rfl
@[simp] theorem trapState_limitHi (s : State) (vector saved : Word) :
    (trapState s vector saved).limitHi = s.limitHi := rfl
@[simp] theorem trapState_protectRule (s : State) (vector saved : Word) :
    (trapState s vector saved).protectRule = s.protectRule := rfl
@[simp] theorem trapState_dev (s : State) (vector saved : Word) :
    (trapState s vector saved).dev = s.dev := rfl
@[simp] theorem trapState_outputs (s : State) (vector saved : Word) :
    (trapState s vector saved).outputs = s.outputs := rfl
@[simp] theorem trapState_mem (s : State) (vector saved : Word) :
    (trapState s vector saved).mem = trapMemory s saved := rfl
@[simp] theorem trapState_arrivals (s : State) (vector saved : Word) :
    (trapState s vector saved).arrivals = s.arrivals := rfl
@[simp] theorem trapState_free (s : State) (vector saved : Word) :
    (trapState s vector saved).free = s.free := rfl
@[simp] theorem trapState_draws (s : State) (vector saved : Word) :
    (trapState s vector saved).draws = s.draws := rfl

/-! ## The state after the devices have delivered an IN -/

@[simp] theorem ioReadState_regs (s : State) (a : Byte) (w : Width) :
    (ioReadState s a w).regs = s.regs := rfl
@[simp] theorem ioReadState_pc (s : State) (a : Byte) (w : Width) :
    (ioReadState s a w).pc = s.pc := rfl
@[simp] theorem ioReadState_flag (s : State) (a : Byte) (w : Width) :
    (ioReadState s a w).flag = s.flag := rfl
@[simp] theorem ioReadState_halted (s : State) (a : Byte) (w : Width) :
    (ioReadState s a w).halted = s.halted := rfl
@[simp] theorem ioReadState_pending (s : State) (a : Byte) (w : Width) :
    (ioReadState s a w).pending = s.pending := rfl
@[simp] theorem ioReadState_limitLo (s : State) (a : Byte) (w : Width) :
    (ioReadState s a w).limitLo = s.limitLo := rfl
@[simp] theorem ioReadState_limitHi (s : State) (a : Byte) (w : Width) :
    (ioReadState s a w).limitHi = s.limitHi := rfl
@[simp] theorem ioReadState_protectRule (s : State) (a : Byte) (w : Width) :
    (ioReadState s a w).protectRule = s.protectRule := rfl
@[simp] theorem ioReadState_dev (s : State) (a : Byte) (w : Width) :
    (ioReadState s a w).dev = latchIn s.dev a w (ioReadValue s a w) := rfl
@[simp] theorem ioReadState_outputs (s : State) (a : Byte) (w : Width) :
    (ioReadState s a w).outputs = s.outputs := rfl
@[simp] theorem ioReadState_mem (s : State) (a : Byte) (w : Width) :
    (ioReadState s a w).mem = s.mem := rfl
@[simp] theorem ioReadState_arrivals (s : State) (a : Byte) (w : Width) :
    (ioReadState s a w).arrivals = s.arrivals := rfl
@[simp] theorem ioReadState_free (s : State) (a : Byte) (w : Width) :
    (ioReadState s a w).free = s.free.tail := rfl
@[simp] theorem ioReadState_draws (s : State) (a : Byte) (w : Width) :
    (ioReadState s a w).draws = s.draws + 1 := rfl

/-! ## Values that do not see an update -/

@[simp] theorem npc_setReg (s : State) (p : Phys) (x : Word) (n : Nat) : npc (s.setReg p x) n = npc s n := rfl
@[simp] theorem npc_setArith (s : State) (f : Arith) (n : Nat) : npc (s.setArith f) n = npc s n := rfl
@[simp] theorem npc_setMem (s : State) (m : Memory) (n : Nat) : npc (s.setMem m) n = npc s n := rfl
@[simp] theorem npc_afterDraw (s : State) (n : Nat) : npc s.afterDraw n = npc s n := rfl
@[simp] theorem spOf_afterDraw (s : State) : spOf s.afterDraw = spOf s := rfl
@[simp] theorem trapBlocked_afterDraw (s : State) : trapBlocked s.afterDraw = trapBlocked s := rfl
@[simp] theorem trapMemory_afterDraw (s : State) (x : Word) : trapMemory s.afterDraw x = trapMemory s x := rfl

/-! ## The register file -/

@[simp] theorem Regs.get_set_same (r : Regs) (p : Phys) (x : Word) : (r.set p x).get p = x := by
  cases p <;> rfl

@[simp] theorem Regs.get_set_of_ne (r : Regs) (p q : Phys) (x : Word) (h : q ≠ p) :
    (r.set p x).get q = r.get q := by
  cases p <;> cases q <;> first | rfl | exact absurd rfl h

theorem Regs.get_set (r : Regs) (p q : Phys) (x : Word) :
    (r.set p x).get q = if q = p then x else r.get q := by
  split
  · next h => subst h; exact Regs.get_set_same r q x
  · next h => exact Regs.get_set_of_ne r p q x h

@[simp] theorem Regs.set_set_same (r : Regs) (p : Phys) (x y : Word) : (r.set p x).set p y = r.set p y := by
  cases p <;> rfl

@[simp] theorem Regs.set_get_same (r : Regs) (p : Phys) : r.set p (r.get p) = r := by
  cases p <;> rfl

/-- Two register files that agree on every name are equal. -/
theorem Regs.ext_get (r q : Regs) (h : ∀ p, r.get p = q.get p) : r = q := by
  cases r; cases q
  simp only [Regs.mk.injEq]
  exact ⟨h .g0, h .g1, h .g2, h .g3, h .g4, h .g5, h .g6, h .g7, h .g8, h .g9, h .g10, h .g11, h .fp, h .ssp, h .usp⟩

@[simp] theorem Regs.get_ssp (r : Regs) : r.get .ssp = r.ssp := rfl
@[simp] theorem Regs.get_usp (r : Regs) : r.get .usp = r.usp := rfl

end Sys2Proof.Machine
end

