-- ==== Sys2Proof/Laws/Ops.lean ====
section
/-!
SUPPORT. One lemma for each shared operation that says once everything it can do.
-/

namespace Sys2Proof.Machine

/-! ## Computations -/

@[simp] theorem Eff.bind_ok (a : α) (f : α → Eff β) : (Eff.ok a).bind f = f a := rfl
@[simp] theorem Eff.bind_raise (e : Exc) (f : α → Eff β) : (Eff.raise e : Eff α).bind f = .raise e := rfl
@[simp] theorem Eff.bind_refuse (r : Refusal) (f : α → Eff β) : (Eff.refuse r : Eff α).bind f = .refuse r := rfl

theorem Eff.bind_eq_ok {x : Eff α} {f : α → Eff β} {b : β} :
    x.bind f = .ok b ↔ ∃ a, x = .ok a ∧ f a = .ok b := by
  cases x <;> simp [Eff.bind]

theorem Eff.bind_eq_raise {x : Eff α} {f : α → Eff β} {e : Exc} :
    x.bind f = .raise e ↔ x = .raise e ∨ ∃ a, x = .ok a ∧ f a = .raise e := by
  cases x <;> simp [Eff.bind]

theorem Eff.bind_eq_refuse {x : Eff α} {f : α → Eff β} {r : Refusal} :
    x.bind f = .refuse r ↔ x = .refuse r ∨ ∃ a, x = .ok a ∧ f a = .refuse r := by
  cases x <;> simp [Eff.bind]

@[simp] theorem settle_ok (s t : State) : settle s (.ok t) = .next t := rfl
@[simp] theorem settle_raise (s : State) (e : Exc) : settle s (.raise e) = raiseExc s e := rfl
@[simp] theorem settle_refuse (s : State) (r : Refusal) : settle s (.refuse r) = .refused r := rfl

/-! ## Trap entry -/

theorem trapEntry_eq_next {s t : State} {v x : Word} :
    trapEntry s v x = .next t ↔ trapBlocked s = false ∧ t = trapState s v x := by
  unfold trapEntry
  split
  · next h => simp [h]
  · next h =>
    simp only [Host.Outcome.next.injEq, Bool.not_eq_true] at h ⊢
    exact ⟨fun e => ⟨h, e.symm⟩, fun e => e.2.symm⟩

/-- A trap entry of an unblocked state succeeds. -/
theorem trapEntry_next {s : State} (h : trapBlocked s = false) (v x : Word) :
    trapEntry s v x = .next (trapState s v x) := trapEntry_eq_next.2 ⟨h, rfl⟩

/-- A raised exception that leads to a next state has taken its trap, from `s` or from `s` after a draw. -/
theorem raiseExc_eq_next {s t : State} {e : Exc} (h : raiseExc s e = .next t) :
    trapBlocked s = false ∧ ∃ u x, (u = s ∨ u = s.afterDraw) ∧ t = trapState u (vectorOf e) x := by
  cases e <;> simp only [raiseExc, trapEntry_eq_next, trapBlocked_afterDraw] at h <;>
    exact ⟨h.1, _, _, by first | exact .inr rfl | exact .inl rfl, h.2⟩

/-- A raised exception is never a refusal. -/
theorem raiseExc_ne_refused (s : State) (e : Exc) (r : Refusal) : raiseExc s e ≠ .refused r := by
  cases e <;> simp only [raiseExc, trapEntry] <;> split <;> simp

theorem settle_eq_next {s t : State} {x : Eff State} :
    settle s x = .next t ↔ x = .ok t ∨ ∃ e, x = .raise e ∧ raiseExc s e = .next t := by
  cases x <;> simp [settle]

theorem settle_eq_refused {s : State} {x : Eff State} {r : Refusal} :
    settle s x = .refused r ↔ x = .refuse r := by
  cases x <;> simp [settle, raiseExc_ne_refused]

/-- What a trap entry writes lies in the two pushed words. -/
theorem read_trapMemory (s : State) (x : Word) {n : Nat}
    (h1 : n ≠ (s.regs.ssp - 2).toNat) (h2 : n ≠ (s.regs.ssp - 2 + 1).toNat)
    (h3 : n ≠ (s.regs.ssp - 4).toNat) (h4 : n ≠ (s.regs.ssp - 4 + 1).toNat) :
    (trapMemory s x).read n = s.mem.read n := by
  rw [trapMemory, read_storeWord_of_ne _ _ _ h3 h4, read_storeWord_of_ne _ _ _ h1 h2]

/-! ## Memory accesses -/

/-- Privileged mode meets no limit, whatever the rule (20_memory.md R62). -/
theorem limitViolation_of_priv {s : State} (h : s.flag.p = true) (k : AccessKind) (a : Word) (n : Nat) :
    limitViolation s k a n = false := by
  simp [limitViolation, h]

/-- The spec's default rule in user mode (20_memory.md R62). -/
theorem limitViolation_closedRange {s : State} (h : s.flag.p = false) (hr : s.protectRule = .closedRange)
    (k : AccessKind) (a : Word) (n : Nat) : limitViolation s k a n = outsideRange s.limitLo s.limitHi a n := by
  simp [limitViolation, h, hr, protect]

theorem checkWord_eq_ok {s : State} {k : AccessKind} {a : Word} {u : Unit} :
    checkWord s k a = .ok u ↔ isOdd a = false ∧ limitViolation s k a 2 = false := by
  unfold checkWord
  split <;> [skip; split] <;> simp_all

theorem checkByte_eq_ok {s : State} {k : AccessKind} {a : Word} {u : Unit} :
    checkByte s k a = .ok u ↔ limitViolation s k a 1 = false := by
  unfold checkByte
  split <;> simp_all

theorem readWord_eq_ok {s : State} {k : AccessKind} {a x : Word} :
    readWord s k a = .ok x ↔
      isOdd a = false ∧ limitViolation s k a 2 = false ∧ x = loadWord s.mem a := by
  simp only [readWord, Eff.bind_eq_ok, checkWord_eq_ok, Eff.ok.injEq]
  exact ⟨fun ⟨_, h, e⟩ => ⟨h.1, h.2, e.symm⟩, fun ⟨h, h', e⟩ => ⟨(), ⟨h, h'⟩, e.symm⟩⟩

theorem readByte_eq_ok {s : State} {k : AccessKind} {a : Word} {x : Byte} :
    readByte s k a = .ok x ↔ limitViolation s k a 1 = false ∧ x = s.mem.read a.toNat := by
  simp only [readByte, Eff.bind_eq_ok, checkByte_eq_ok, Eff.ok.injEq]
  exact ⟨fun ⟨_, h, e⟩ => ⟨h, e.symm⟩, fun ⟨h, e⟩ => ⟨(), h, e.symm⟩⟩

theorem writeWord_eq_ok {s : State} {a x : Word} {m : Memory} :
    writeWord s a x = .ok m ↔
      isOdd a = false ∧ limitViolation s .write a 2 = false ∧ inRom a = false ∧ m = storeWord s.mem a x := by
  simp only [writeWord, Eff.bind_eq_ok, checkWord_eq_ok]
  constructor
  · rintro ⟨u, ⟨h1, h2⟩, h3⟩
    split at h3
    · cases h3
    · next h => exact ⟨h1, h2, by simpa using h, by cases h3; rfl⟩
  · rintro ⟨h1, h2, h3, rfl⟩
    exact ⟨(), ⟨h1, h2⟩, by simp [h3]⟩

theorem writeByte_eq_ok {s : State} {a : Word} {x : Byte} {m : Memory} :
    writeByte s a x = .ok m ↔
      limitViolation s .write a 1 = false ∧ inRom a = false ∧ m = s.mem.write a.toNat x := by
  simp only [writeByte, Eff.bind_eq_ok, checkByte_eq_ok]
  constructor
  · rintro ⟨u, h1, h3⟩
    split at h3
    · cases h3
    · next h => exact ⟨h1, by simpa using h, by cases h3; rfl⟩
  · rintro ⟨h1, h3, rfl⟩
    exact ⟨(), h1, by simp [h3]⟩

theorem push_eq_ok {s t : State} {x : Word} :
    push s x = .ok t ↔
      ∃ m, writeWord s (s.regs.get (spOf s) - 2) x = .ok m ∧
        t = (s.setReg (spOf s) (s.regs.get (spOf s) - 2)).setMem m := by
  simp only [push, Eff.bind_eq_ok, Eff.ok.injEq]
  exact ⟨fun ⟨m, h, e⟩ => ⟨m, h, e.symm⟩, fun ⟨m, h, e⟩ => ⟨m, h, e.symm⟩⟩

theorem pop_eq_ok {s : State} {r : Word × State} :
    pop s = .ok r ↔
      readWord s .read (s.regs.get (spOf s)) = .ok r.1 ∧
        r.2 = s.setReg (spOf s) (s.regs.get (spOf s) + 2) := by
  obtain ⟨x, t⟩ := r
  simp only [pop, Eff.bind_eq_ok, Eff.ok.injEq, Prod.mk.injEq]
  exact ⟨fun ⟨_, h, e, e'⟩ => ⟨e ▸ h, e'.symm⟩, fun ⟨h, e⟩ => ⟨x, h, rfl, e.symm⟩⟩

theorem writeLoc_eq_ok {s : State} {l : Loc} {x : Word} {m : Memory} :
    writeLoc s l x = .ok m ↔
      ∃ a, locAddr s l = .ok a ∧
        ((Loc.width l = .word ∧ writeWord s a x = .ok m) ∨
          (Loc.width l = .byte ∧ writeByte s a (loByte x) = .ok m)) := by
  simp only [writeLoc, Eff.bind_eq_ok]
  cases h : Loc.width l <;> simp

/-! ## Registers and operands -/

/-- In user mode no register number names the system stack pointer (10_state.md R22). -/
theorem resolve_ne_ssp {s : State} {r : Reg} {d : Phys} (hp : s.flag.p = false) (h : resolve s r = .ok d) :
    d ≠ .ssp := by
  cases r <;> simp [resolve, spOf, hp] at h <;> subst h <;> decide

/-- Only number F is refused (10_state.md R22). -/
theorem resolve_eq_refuse {s : State} {r : Reg} {q : Refusal} :
    resolve s r = .refuse q ↔ r = .pc ∧ q = .pcOperand := by
  cases r <;> simp [resolve, eq_comm]

/-- A register pair is two different general registers. -/
theorem pairOf_eq_ok {r : Reg} {d : Phys × Phys} (h : pairOf r = .ok d) :
    d.1 ≠ d.2 ∧ d.1 ≠ .ssp ∧ d.2 ≠ .ssp ∧ d.1 ≠ .usp ∧ d.2 ≠ .usp ∧ d.1 ≠ .fp ∧ d.2 ≠ .fp := by
  cases r <;> simp [pairOf] at h <;> subst h <;> decide

theorem operands_eq_ok {s : State} {rd : Reg} {m : Src} {o : Operands} :
    operands s rd m = .ok o ↔
      resolve s rd = .ok o.dst ∧ operand s m = .ok o.b ∧ o.a = s.regs.get o.dst := by
  obtain ⟨d, a, b⟩ := o
  simp only [operands, Eff.bind_eq_ok]
  constructor
  · rintro ⟨d', h1, b', h2, h3⟩
    cases h3
    exact ⟨h1, h2, rfl⟩
  · rintro ⟨h1, h2, h3⟩
    exact ⟨d, h1, b, h2, by rw [h3]⟩

theorem pairOperands_eq_ok {s : State} {rd : Reg} {m : Src} {o : PairOperands} :
    pairOperands s rd m = .ok o ↔
      pairOf rd = .ok (o.lo, o.hi) ∧ operand s m = .ok o.b ∧
        o.a = s.regs.get o.lo ∧ o.aHi = s.regs.get o.hi := by
  obtain ⟨l, h, a, ah, b⟩ := o
  simp only [pairOperands, Eff.bind_eq_ok]
  constructor
  · rintro ⟨d', h1, b', h2, h3⟩
    cases h3
    exact ⟨h1, h2, rfl, rfl⟩
  · rintro ⟨h1, h2, h3, h4⟩
    exact ⟨(l, h), h1, b, h2, by rw [h3, h4]⟩

theorem checkPriv_eq_ok {s : State} {i : PrivInstr} {u : Unit} :
    checkPriv s i = .ok u ↔ forbidden s i = false := by
  unfold checkPriv
  split <;> simp_all

theorem returnFromTrap_eq_ok {s t : State} :
    returnFromTrap s = .ok t ↔
      ∃ f x, readWord s .read (s.regs.get (spOf s)) = .ok f ∧
        readWord s .read (s.regs.get (spOf s) + 2) = .ok x ∧
        t = ((s.setReg (spOf s) (s.regs.get (spOf s) + 4)).setFlag (flagAfterReti s.flag f)).goto x := by
  simp only [returnFromTrap, Eff.bind_eq_ok, Eff.ok.injEq]
  exact ⟨fun ⟨f, h, x, h', e⟩ => ⟨f, x, h, h', e.symm⟩, fun ⟨f, x, h, h', e⟩ => ⟨f, h, x, h', e.symm⟩⟩

/-! ## The I/O space -/

/-- What an OUT can do: set a limit, or write a device register; the history grows by one. -/
theorem ioWrite_eq_ok {s t : State} {a : Byte} {w : Width} {v : Word} (h : ioWrite s a w v = .ok t) :
    (t = { s with outputs := s.outputs ++ [ioRecord a w v], limitLo := v } ∧ w = .word ∧
        0xF4 ≤ a.toNat ∧ a.toNat < 0xF6) ∨
      (t = { s with outputs := s.outputs ++ [ioRecord a w v], limitHi := v } ∧ w = .word ∧
        0xF6 ≤ a.toNat ∧ a.toNat ≤ 0xF7) ∨
      (t = { s with outputs := s.outputs ++ [ioRecord a w v], dev := devWrite s.dev a w v } ∧
        ¬(0xF4 ≤ a.toNat ∧ a.toNat ≤ 0xF7)) := by
  simp only [ioWrite] at h
  split at h
  · next hr =>
    cases w with
    | byte => cases h
    | word =>
      simp only at h
      split at h <;> cases h
      · next hlt => exact .inl ⟨rfl, rfl, hr.1, hlt⟩
      · next hlt => exact .inr (.inl ⟨rfl, rfl, by omega, hr.2⟩)
  · next hr => cases h; exact .inr (.inr ⟨rfl, hr⟩)

/-- An IN latches what a device presented: neither the board's mode nor an interrupt enable (60_exceptions.md R248). -/
theorem latchByte_keeps (d : Devices) (a x : Byte) :
    (latchByte d a x).mode = d.mode ∧ irqEnables (latchByte d a x) = irqEnables d := by
  unfold latchByte
  split <;> exact ⟨rfl, rfl⟩

@[simp] theorem latchIn_mode (d : Devices) (a : Byte) (w : Width) (v : Word) : (latchIn d a w v).mode = d.mode := by
  cases w <;> simp [latchIn, latchByte_keeps]

@[simp] theorem irqEnables_latchIn (d : Devices) (a : Byte) (w : Width) (v : Word) :
    irqEnables (latchIn d a w v) = irqEnables d := by
  cases w <;> simp [latchIn, latchByte_keeps]

/-- No OUT reaches the board's mode (60_exceptions.md R248, R252). -/
theorem devWriteByte_mode (d : Devices) (a x : Byte) : (devWriteByte d a x).mode = d.mode := by
  unfold devWriteByte
  split <;> rfl

@[simp] theorem devWrite_mode (d : Devices) (a : Byte) (w : Width) (v : Word) : (devWrite d a w v).mode = d.mode := by
  cases w <;> simp [devWrite, devWriteByte_mode]

/-- Requests change `pending` and the queue of arrivals only. -/
theorem deliver_eq (s : State) :
    ∃ p q, deliver s = { s with pending := p, arrivals := q } := by
  unfold deliver
  split
  · exact ⟨s.pending, s.arrivals, rfl⟩
  · exact ⟨_, _, rfl⟩

@[simp] theorem deliver_regs (s : State) : (deliver s).regs = s.regs := by
  obtain ⟨p, q, h⟩ := deliver_eq s; rw [h]
@[simp] theorem deliver_pc (s : State) : (deliver s).pc = s.pc := by
  obtain ⟨p, q, h⟩ := deliver_eq s; rw [h]
@[simp] theorem deliver_flag (s : State) : (deliver s).flag = s.flag := by
  obtain ⟨p, q, h⟩ := deliver_eq s; rw [h]
@[simp] theorem deliver_halted (s : State) : (deliver s).halted = s.halted := by
  obtain ⟨p, q, h⟩ := deliver_eq s; rw [h]
@[simp] theorem deliver_limitLo (s : State) : (deliver s).limitLo = s.limitLo := by
  obtain ⟨p, q, h⟩ := deliver_eq s; rw [h]
@[simp] theorem deliver_limitHi (s : State) : (deliver s).limitHi = s.limitHi := by
  obtain ⟨p, q, h⟩ := deliver_eq s; rw [h]
@[simp] theorem deliver_protectRule (s : State) : (deliver s).protectRule = s.protectRule := by
  obtain ⟨p, q, h⟩ := deliver_eq s; rw [h]
@[simp] theorem deliver_dev (s : State) : (deliver s).dev = s.dev := by
  obtain ⟨p, q, h⟩ := deliver_eq s; rw [h]
@[simp] theorem deliver_outputs (s : State) : (deliver s).outputs = s.outputs := by
  obtain ⟨p, q, h⟩ := deliver_eq s; rw [h]
@[simp] theorem deliver_mem (s : State) : (deliver s).mem = s.mem := by
  obtain ⟨p, q, h⟩ := deliver_eq s; rw [h]
@[simp] theorem deliver_free (s : State) : (deliver s).free = s.free := by
  obtain ⟨p, q, h⟩ := deliver_eq s; rw [h]
@[simp] theorem deliver_draws (s : State) : (deliver s).draws = s.draws := by
  obtain ⟨p, q, h⟩ := deliver_eq s; rw [h]

end Sys2Proof.Machine
end

