-- ==== Sys2Proof/Laws/PerInstr.lean ====
section
/-!
SUPPORT. Statements about every instruction as syntax, one lemma for each constructor.
-/

namespace Sys2Proof.Laws.EncodeLength

/-- The encoding of an instruction is its first word and as many words as `extraWords` says (30_encoding.md R81). -/
def Statement (i : Instr) : Prop := (encode i).length = 1 + i.extraWords

theorem loc (base : Byte) (rd : Nibble) (l : Loc) : (encodeLoc base rd l).length = 1 + l.extraWords := by
  cases l <;> rfl

theorem src (base : Byte) (rd : Nibble) (m : Src) : (encodeSrc base rd m).length = 1 + m.extraWords := by
  cases m <;> first | rfl | exact loc _ _ _

theorem target (base : Byte) (rd : Nibble) (t : Target) : (encodeTarget base rd t).length = 1 + t.extraWords := by
  cases t <;> rfl

theorem port (base : Byte) (rd : Nibble) (p : Port) : (encodePort base rd p).length = 1 + p.extraWords := by
  cases p <;> rfl

theorem no : Statement .no := rfl
theorem ld (rd : Reg) (m : Src) : Statement (.ld rd m) := src _ _ _
theorem ldFlag (rd : Reg) : Statement (.ldFlag rd) := rfl
theorem st (rd : Reg) (m : Loc) : Statement (.st rd m) := loc _ _ _
theorem add (rd : Reg) (m : Src) : Statement (.add rd m) := src _ _ _
theorem sub (rd : Reg) (m : Src) : Statement (.sub rd m) := src _ _ _
theorem cmp (rd : Reg) (m : Src) : Statement (.cmp rd m) := src _ _ _
theorem and (rd : Reg) (m : Src) : Statement (.and rd m) := src _ _ _
theorem or (rd : Reg) (m : Src) : Statement (.or rd m) := src _ _ _
theorem xor (rd : Reg) (m : Src) : Statement (.xor rd m) := src _ _ _
theorem adds (rd : Reg) (m : Src) : Statement (.adds rd m) := src _ _ _
theorem mul (rd : Reg) (m : Src) : Statement (.mul rd m) := src _ _ _
theorem div (rd : Reg) (m : Src) : Statement (.div rd m) := src _ _ _
theorem mod (rd : Reg) (m : Src) : Statement (.mod rd m) := src _ _ _
theorem mull (rd : Reg) (m : Src) : Statement (.mull rd m) := src _ _ _
theorem divl (rd : Reg) (m : Src) : Statement (.divl rd m) := src _ _ _
theorem shla (rd : Reg) (m : Src) : Statement (.shla rd m) := src _ _ _
theorem shll (rd : Reg) (m : Src) : Statement (.shll rd m) := src _ _ _
theorem shra (rd : Reg) (m : Src) : Statement (.shra rd m) := src _ _ _
theorem shrl (rd : Reg) (m : Src) : Statement (.shrl rd m) := src _ _ _
theorem jz (t : Target) : Statement (.jz t) := target _ _ _
theorem jc (t : Target) : Statement (.jc t) := target _ _ _
theorem jm (t : Target) : Statement (.jm t) := target _ _ _
theorem jo (t : Target) : Statement (.jo t) := target _ _ _
theorem jgt (t : Target) : Statement (.jgt t) := target _ _ _
theorem jge (t : Target) : Statement (.jge t) := target _ _ _
theorem jle (t : Target) : Statement (.jle t) := target _ _ _
theorem jlt (t : Target) : Statement (.jlt t) := target _ _ _
theorem jnz (t : Target) : Statement (.jnz t) := target _ _ _
theorem jnc (t : Target) : Statement (.jnc t) := target _ _ _
theorem jnm (t : Target) : Statement (.jnm t) := target _ _ _
theorem jno (t : Target) : Statement (.jno t) := target _ _ _
theorem jhi (t : Target) : Statement (.jhi t) := target _ _ _
theorem jls (t : Target) : Statement (.jls t) := target _ _ _
theorem jmp (t : Target) : Statement (.jmp t) := target _ _ _
theorem call (t : Target) : Statement (.call t) := target _ _ _
theorem inp (rd : Reg) (p : Port) : Statement (.inp rd p) := port _ _ _
theorem out (rd : Reg) (p : Port) : Statement (.out rd p) := port _ _ _
theorem push (rd : Reg) : Statement (.push rd) := rfl
theorem pop (rd : Reg) : Statement (.pop rd) := rfl
theorem ret : Statement .ret := rfl
theorem reti : Statement .reti := rfl
theorem ei : Statement .ei := rfl
theorem di : Statement .di := rfl
theorem svc : Statement .svc := rfl
theorem halt : Statement .halt := rfl

end Sys2Proof.Laws.EncodeLength
end

