-- ==== Sys2Proof/Laws/Step.lean ====
section
/-!
SUPPORT. What a step can do, said once: an interrupt, a halted step, or a fetch that ends in a trap, in a refusal or in
the execution of one decoded instruction.
-/

namespace Sys2Proof.Machine

/-- The three things a step can be (60_exceptions.md R211, 46_system.md R196). -/
theorem step_cases (s : State) :
    (∃ k, acceptable (deliver s) = some k ∧ step s = acceptInterrupt (deliver s) k) ∨
      (acceptable (deliver s) = none ∧ s.halted = true ∧ step s = .next (deliver s)) ∨
      (acceptable (deliver s) = none ∧ s.halted = false ∧ step s = fetchExecute (deliver s)) := by
  unfold step cycle boundary
  cases ha : acceptable (deliver s) with
  | some k => exact .inl ⟨k, rfl, rfl⟩
  | none =>
    cases hh : s.halted with
    | true => exact .inr (.inl ⟨rfl, rfl, by simp [hh]⟩)
    | false => exact .inr (.inr ⟨rfl, rfl, by simp [hh]⟩)

/-- What a second fetch can come to. -/
theorem executeLong_cases (s : State) (w1 : Word) :
    (∃ e, executeLong s w1 = raiseExc s e) ∨ (∃ r, executeLong s w1 = .refused r) ∨
      ∃ w2 i, readWord s .fetch (s.pc + 2) = .ok w2 ∧ decode w1 w2 = .ok i ∧ executeLong s w1 = exec i s := by
  unfold executeLong
  cases h : readWord s .fetch (s.pc + 2) with
  | raise e => exact .inl ⟨e, rfl⟩
  | refuse r => exact .inr (.inl ⟨r, rfl⟩)
  | ok w2 =>
    cases hd : decode w1 w2 with
    | error r =>
      cases r with
      | undefined => exact .inl ⟨.undefinedInstruction, by simp [rejected, hd]⟩
      | padNonZero => exact .inr (.inl ⟨.padNonZero, by simp [rejected, hd]⟩)
      | illFormed d => exact .inr (.inl ⟨defectRefusal d, by simp [rejected, hd]⟩)
    | ok i => exact .inr (.inr ⟨w2, i, rfl, hd, by simp [hd]⟩)

/-- What a first word can come to. -/
theorem executeWord_cases (s : State) (w1 : Word) :
    (∃ e, executeWord s w1 = raiseExc s e) ∨ (∃ r, executeWord s w1 = .refused r) ∨
      ∃ w2 i, decode w1 w2 = .ok i ∧ wordForbidden s w1 = false ∧
        (i.extraWords = 0 ∨ readWord s .fetch (s.pc + 2) = .ok w2) ∧ executeWord s w1 = exec i s := by
  unfold executeWord
  cases hd : decode w1 0 with
  | error r =>
    cases r with
    | undefined => exact .inl ⟨.undefinedInstruction, by simp [rejected]⟩
    | padNonZero => exact .inr (.inl ⟨.padNonZero, by simp [rejected]⟩)
    | illFormed d =>
      cases hf : wordForbidden s w1 with
      | true => exact .inl ⟨.privilegeViolation, by simp⟩
      | false => exact .inr (.inl ⟨defectRefusal d, by simp [rejected]⟩)
  | ok i =>
    cases hf : wordForbidden s w1 with
    | true => exact .inl ⟨.privilegeViolation, by simp⟩
    | false =>
      cases hx : i.extraWords with
      | zero => exact .inr (.inr ⟨0, i, hd, rfl, .inl hx, by simp [hx]⟩)
      | succ n =>
        simp only [Bool.false_eq_true, if_false, hx]
        rcases executeLong_cases s w1 with h | h | ⟨w2, j, h1, h2, h3⟩
        · exact .inl h
        · exact .inr (.inl h)
        · exact .inr (.inr ⟨w2, j, h2, trivial, .inr h1, h3⟩)

/-- A fetch that leads to a next state has taken a trap or executed the decoded instruction (30_encoding.md R92). -/
theorem fetchExecute_eq_next {s t : State} (h : fetchExecute s = .next t) :
    (∃ e, raiseExc s e = .next t) ∨
      ∃ w1 w2 i, readWord s .fetch s.pc = .ok w1 ∧ decode w1 w2 = .ok i ∧
        (i.extraWords = 0 ∨ readWord s .fetch (s.pc + 2) = .ok w2) ∧
        wordForbidden s w1 = false ∧ exec i s = .next t := by
  unfold fetchExecute at h
  cases hr : readWord s .fetch s.pc with
  | raise e => rw [hr] at h; exact .inl ⟨e, h⟩
  | refuse r => rw [hr] at h; cases h
  | ok w1 =>
    rw [hr] at h
    rcases executeWord_cases s w1 with ⟨e, he⟩ | ⟨r, hr'⟩ | ⟨w2, i, h1, h2, h3, h4⟩
    · exact .inl ⟨e, he ▸ h⟩
    · simp only [hr'] at h; cases h
    · exact .inr ⟨w1, w2, i, rfl, h1, h3, h2, h4 ▸ h⟩

/-- The decoder delivers well-formed instructions only. -/
theorem decode_wellFormed {w1 w2 : Word} {i : Instr} (h : decode w1 w2 = .ok i) : i.wellFormed = true := by
  unfold decode at h
  split at h
  · cases h
  · next j hj =>
    split at h
    · next hd => cases h; simp [Instr.wellFormed, hd]
    · cases h

end Sys2Proof.Machine
end

