-- ==== Sys2Proof/Machine/Timing.lean ====
section
/-!
DEFINITION. The state counts of the instruction table (70_reset_and_hazards.md R275, R276): timing information that no
step depends on (00_scope.md R11).
-/

namespace Sys2Proof.Machine

/-- A row of the table whose modes 0 to 7 cost 7, 7, 5, 7, `reg`, 4, 6, 6 states. -/
def srcStates (reg : Nat) : Src → Nat
  | .mem (.direct _) => 7
  | .mem (.indexed _ _) => 7
  | .imm _ => 5
  | .mem (.fpRel _) => 7
  | .reg _ => reg
  | .imm4 _ => 4
  | .mem (.indirect _) => 6
  | .mem (.byteIndirect _) => 6

/-- ST: 6 states with a displacement, 5 through a register. -/
def locStates : Loc → Nat
  | .direct _ => 6
  | .indexed _ _ => 6
  | .fpRel _ => 6
  | .indirect _ => 5
  | .byteIndirect _ => 5

/-- IN and OUT: `reg` states through a register, one more in Direct mode. -/
def portStates (reg : Nat) : Port → Nat
  | .direct _ => reg + 1
  | .indirect _ => reg
  | .byteIndirect _ => reg

/-- A conditional jump: 5 states taken, 4 not taken (70_reset_and_hazards.md R276). -/
def jumpStates (taken : Bool) : Nat := if taken then 5 else 4

/-- The number of states of an instruction under the flags `f`; `n` is the count of a shift
(70_reset_and_hazards.md R275). -/
def stateCount (f : Flag) (n : Nat) : Instr → Nat
  | .no => 3
  | .ld _ m => srcStates 4 m
  | .ldFlag _ => 4
  | .st _ m => locStates m
  | .add _ m => srcStates 5 m
  | .sub _ m => srcStates 5 m
  | .cmp _ m => srcStates 5 m
  | .and _ m => srcStates 5 m
  | .or _ m => srcStates 5 m
  | .xor _ m => srcStates 5 m
  | .adds _ m => srcStates 5 m + 1
  | .mul _ m => srcStates 5 m + 50
  | .div _ m => srcStates 5 m + 66
  | .mod _ m => srcStates 5 m + 66
  | .mull _ m => srcStates 5 m + 50
  | .divl _ m => srcStates 5 m + 66
  | .shla _ m => srcStates 5 m + 1 + n
  | .shll _ m => srcStates 5 m + 1 + n
  | .shra _ m => srcStates 5 m + 1 + n
  | .shrl _ m => srcStates 5 m + 1 + n
  | .jz _ => jumpStates (condZ f)
  | .jc _ => jumpStates (condC f)
  | .jm _ => jumpStates (condM f)
  | .jo _ => jumpStates (condO f)
  | .jgt _ => jumpStates (condGt f)
  | .jge _ => jumpStates (condGe f)
  | .jle _ => jumpStates (condLe f)
  | .jlt _ => jumpStates (condLt f)
  | .jnz _ => jumpStates (condNz f)
  | .jnc _ => jumpStates (condNc f)
  | .jnm _ => jumpStates (condNm f)
  | .jno _ => jumpStates (condNo f)
  | .jhi _ => jumpStates (condHi f)
  | .jls _ => jumpStates (condLs f)
  | .jmp _ => 5
  | .call _ => 6
  | .inp _ p => portStates 6 p
  | .out _ p => portStates 5 p
  | .push _ => 5
  | .pop _ => 6
  | .ret => 6
  | .reti => 9
  | .ei => 5
  | .di => 5
  | .svc => 12
  | .halt => 5

end Sys2Proof.Machine
end

