-- ==== Sys2Proof/Tests/Slice0.lean ====
section
/-!
SUPPORT. Tests on fixed values, and a witness for the hypotheses of each statement. Expected words and results come from
spec/95_test_vectors.md and from the encodings of spec/30_encoding.md; a row is cited by its section.
-/

namespace Sys2Proof.Tests

open Sys2Proof Sys2Proof.Machine

-- The kernel evaluates the tests one after another: side by side their stacks fill the memory.
set_option Elab.async false

/-! ## Well-formedness: an ill-formed term for each check -/

/-- 10_state.md R22: number F as Rd, as Rs, as Rx in every operand form. -/
theorem test_wellFormed_refuses_pc :
    (Instr.ld .pc (.imm 0)).wellFormed = false ∧ (Instr.ldFlag .pc).wellFormed = false ∧
      (Instr.push .pc).wellFormed = false ∧ (Instr.pop .pc).wellFormed = false ∧
      (Instr.add .g0 (.reg .pc)).wellFormed = false ∧
      (Instr.ld .g0 (.mem (.indexed 0 .pc))).wellFormed = false ∧
      (Instr.st .g0 (.indirect .pc)).wellFormed = false ∧ (Instr.st .pc (.direct 0)).wellFormed = false ∧
      (Instr.ld .g0 (.mem (.byteIndirect .pc))).wellFormed = false ∧
      (Instr.jmp (.indexed 0 .pc)).wellFormed = false ∧ (Instr.call (.indirect .pc)).wellFormed = false ∧
      (Instr.inp .pc (.direct 0)).wellFormed = false ∧ (Instr.inp .g0 (.indirect .pc)).wellFormed = false ∧
      (Instr.out .g0 (.byteIndirect .pc)).wellFormed = false := by decide +kernel

/-- 30_encoding.md R99: MULL and DIVL with Rd odd or above A. -/
theorem test_wellFormed_refuses_pairs :
    (Instr.mull .g1 (.reg .g2)).wellFormed = false ∧ (Instr.mull .fp (.reg .g2)).wellFormed = false ∧
      (Instr.divl .g11 (.imm 1)).wellFormed = false ∧ (Instr.divl .sp (.imm 1)).wellFormed = false ∧
      (Instr.divl .usp (.imm 1)).wellFormed = false := by decide +kernel

theorem test_wellFormed_accepts :
    (Instr.mull .g10 (.reg .g10)).wellFormed = true ∧ (Instr.divl .g0 (.reg .sp)).wellFormed = true ∧
      (Instr.mul .g1 (.reg .g2)).wellFormed = true ∧ (Instr.ld .usp (.imm 0x8000)).wellFormed = true ∧
      (Instr.jmp (.indirect .fp)).wellFormed = true := by decide +kernel

/-! ## Decoding (95_test_vectors.md 1.1, 2.0 to 2.8) -/

theorem test_decode_moves :
    decode 0x0000 0 = .ok .no ∧ decode 0x0810 0x1000 = .ok (.ld .g1 (.mem (.direct 0x1000))) ∧
      decode 0x0912 2 = .ok (.ld .g1 (.mem (.indexed 2 .g2))) ∧ decode 0x0A10 0x1234 = .ok (.ld .g1 (.imm 0x1234)) ∧
      decode 0x0B18 0 = .ok (.ld .g1 (.mem (.fpRel 8))) ∧ decode 0x0C12 0 = .ok (.ld .g1 (.reg .g2)) ∧
      decode 0x0D58 0 = .ok (.ld .g5 (.imm4 8)) ∧ decode 0x0E23 0 = .ok (.ld .g2 (.mem (.indirect .g3))) ∧
      decode 0x0F23 0 = .ok (.ld .g2 (.mem (.byteIndirect .g3))) := by decide +kernel

theorem test_decode_ldFlag_st :
    decode 0x1410 0 = .ok (.ldFlag .g1) ∧ decode 0x1010 0x1000 = .ok (.st .g1 (.direct 0x1000)) ∧
      decode 0x1112 2 = .ok (.st .g1 (.indexed 2 .g2)) ∧ decode 0x1312 0 = .ok (.st .g1 (.fpRel 2)) ∧
      decode 0x1612 0 = .ok (.st .g1 (.indirect .g2)) ∧ decode 0x1712 0 = .ok (.st .g1 (.byteIndirect .g2)) := by
  decide +kernel

theorem test_decode_arith :
    decode 0x1A30 0x1234 = .ok (.add .g3 (.imm 0x1234)) ∧ decode 0x2401 0 = .ok (.sub .g0 (.reg .g1)) ∧
      decode 0x2C01 0 = .ok (.cmp .g0 (.reg .g1)) ∧ decode 0x3200 0x00FF = .ok (.and .g0 (.imm 0x00FF)) ∧
      decode 0x3C01 0 = .ok (.or .g0 (.reg .g1)) ∧ decode 0x450F 0 = .ok (.xor .g0 (.imm4 0xF)) ∧
      decode 0x4F01 0 = .ok (.adds .g0 (.mem (.byteIndirect .g1))) := by decide +kernel

theorem test_decode_mulDiv :
    decode 0x550E 0 = .ok (.mul .g0 (.imm4 0xE)) ∧ decode 0x5C01 0 = .ok (.div .g0 (.reg .g1)) ∧
      decode 0x6505 0 = .ok (.mod .g0 (.imm4 5)) ∧ decode 0x6C21 0 = .ok (.mull .g2 (.reg .g1)) ∧
      decode 0x6CAA 0 = .ok (.mull .g10 (.reg .g10)) ∧ decode 0x7421 0 = .ok (.divl .g2 (.reg .g1)) := by decide +kernel

theorem test_decode_shifts :
    decode 0x8501 0 = .ok (.shla .g0 (.imm4 1)) ∧ decode 0x8C00 0 = .ok (.shll .g0 (.reg .g0)) ∧
      decode 0x9504 0 = .ok (.shra .g0 (.imm4 4)) ∧ decode 0x9C01 0 = .ok (.shrl .g0 (.reg .g1)) := by decide +kernel

theorem test_decode_jumps :
    decode 0xA000 0x0200 = .ok (.jz (.direct 0x0200)) ∧ decode 0xA010 0x0200 = .ok (.jc (.direct 0x0200)) ∧
      decode 0xA020 0x0200 = .ok (.jm (.direct 0x0200)) ∧ decode 0xA030 0x0200 = .ok (.jo (.direct 0x0200)) ∧
      decode 0xA040 0x0200 = .ok (.jgt (.direct 0x0200)) ∧ decode 0xA050 0x0200 = .ok (.jge (.direct 0x0200)) ∧
      decode 0xA060 0x0200 = .ok (.jle (.direct 0x0200)) ∧ decode 0xA070 0x0200 = .ok (.jlt (.direct 0x0200)) ∧
      decode 0xA182 0x0010 = .ok (.jnz (.indexed 0x0010 .g2)) ∧ decode 0xA090 0 = .ok (.jnc (.direct 0)) ∧
      decode 0xA0A0 0 = .ok (.jnm (.direct 0)) ∧ decode 0xA0B0 0 = .ok (.jno (.direct 0)) ∧
      decode 0xA0C0 0x0200 = .ok (.jhi (.direct 0x0200)) ∧ decode 0xA0E0 0x0200 = .ok (.jls (.direct 0x0200)) ∧
      decode 0xA6F3 0 = .ok (.jmp (.indirect .g3)) := by decide +kernel

theorem test_decode_call_io_stack :
    decode 0xA800 0x0300 = .ok (.call (.direct 0x0300)) ∧ decode 0xA901 4 = .ok (.call (.indexed 4 .g1)) ∧
      decode 0xAE0D 0 = .ok (.call (.indirect .sp)) ∧ decode 0xB000 8 = .ok (.inp .g0 (.direct 8)) ∧
      decode 0xB601 0 = .ok (.inp .g0 (.indirect .g1)) ∧ decode 0xB701 0 = .ok (.inp .g0 (.byteIndirect .g1)) ∧
      decode 0xB800 2 = .ok (.out .g0 (.direct 2)) ∧ decode 0xBE01 0 = .ok (.out .g0 (.indirect .g1)) ∧
      decode 0xBF01 0 = .ok (.out .g0 (.byteIndirect .g1)) ∧ decode 0xC010 0 = .ok (.push .g1) ∧
      decode 0xC420 0 = .ok (.pop .g2) := by decide +kernel

theorem test_decode_system :
    decode 0xD000 0 = .ok .ret ∧ decode 0xD400 0 = .ok .reti ∧ decode 0xE000 0 = .ok .ei ∧
      decode 0xE400 0 = .ok .di ∧ decode 0xF000 0 = .ok .svc ∧ decode 0xFF00 0 = .ok .halt := by decide +kernel

theorem test_decode_undefined :
    [0x0100, 0x1210, 0x1510, 0x7800, 0x7F00, 0xA2F0, 0xA5F0, 0xA7F0, 0xA0D0, 0xA1D2, 0xA6D3, 0xA0DF, 0xAA00, 0xB100,
      0xB500, 0xC100, 0xC500, 0xC800, 0xD100, 0xE100, 0xF100, 0xF800, (0xFE00 : Word)].all
      (fun w => decode w 0 = .error .undefined) := by decide +kernel

theorem test_decode_pads :
    [0x0001, 0x0010, 0x0811, 0x081F, 0x1411, 0xA001, 0xA810, 0xA910, 0xAE10, 0xC011, 0xD001, (0xFF01 : Word)].all
      (fun w => decode w 0 = .error .padNonZero) := by decide +kernel

theorem test_decode_illFormed :
    [0x091F, 0x0CF1, 0x0C1F, 0xA60F, 0xC0F0, 0xB70F, (0x6CF1 : Word)].all
        (fun w => decode w 0 = .error (.illFormed .pcOperand)) ∧
      [0x6C12, 0x6CC2, 0x74C1, 0x74D1, (0x74E1 : Word)].all
        (fun w => decode w 0 = .error (.illFormed .pairRegister)) := by
  decide +kernel

/-- A table word's first word is in its low half; a missing operand word is zero; bytes lie high byte first. -/
theorem test_decodeTableWord :
    decodeTableWord 16 0x0A10 = some (.ld .g1 (.imm 0)) ∧ decodeTableWord 32 0x12340A10 = some (.ld .g1 (.imm 0x1234)) ∧
      decodeTableWord 16 0xFF00 = some .halt ∧ decodeTableWord 16 0x0100 = none ∧
      decodeBytes [0x0A, 0x10, 0x12, 0x34, 0xFF] = .ok (.ld .g1 (.imm 0x1234), [0xFF]) ∧
      decodeBytes [0x0A, 0x10, 0x12] = .error .truncated := by decide +kernel

theorem test_encode :
    encode (.ld .g1 (.mem (.fpRel 0xF))) = [0x0B1F] ∧ encode (.jnz (.indexed 0x10 .g2)) = [0xA182, 0x0010] ∧
      encode (.divl .g2 (.reg .g1)) = [0x7421] ∧ encode (.out .g0 (.direct 2)) = [0xB800, 0x0002] := by decide +kernel

/-! ## One step (95_test_vectors.md 2.1 to 2.10) -/

/-- FLAG and memory words as given, the instruction at 0100h, FP = 3000h, SSP = E000h, USP = 8000h, other registers as
listed, limits that allow every address under the default PROTECT, and one free value supplied. -/
def mach (flag : Word) (rs : List (Phys × Word)) (ws : List (Word × Word)) : State :=
  { State.reset with
    pc := 0x0100
    flag := flagOfWord flag
    regs := (([(.fp, 0x3000), (.ssp, 0xE000), (.usp, 0x8000)] : List (Phys × Word)) ++ rs).foldl
      (fun r p => r.set p.1 p.2) State.reset.regs
    mem := ws.foldl (fun m p => storeWord m p.1 p.2) []
    protectRule := .closedRange
    free := [{ word := 0xABCD, flags := { v := true, c := true, s := false, z := false } }] }

/-- What `f` reads from the next state of the one step that runs the table word `w`. -/
def run (s : State) (w : Nat) (f : State → α) : Option α :=
  match step (s.withFetchWord 32 w) with
  | .next t => some (f t)
  | _ => none

/-- The refusal the one step ends in. -/
def stops (s : State) (w : Nat) : Option Refusal :=
  match step (s.withFetchWord 32 w) with
  | .refused r => some r
  | _ => none

/-- FLAG as the number the vectors print. -/
def fl (t : State) : Nat := t.flag.toWord.toNat

/-- S and Z. -/
def sz (t : State) : Bool × Bool := (t.flag.s, t.flag.z)

theorem test_no : run (mach 0x4F [] []) 0 (fun t => (t.pc, fl t)) = some (0x0102, 0x4F) := by decide +kernel

theorem test_ld_memory :
    run (mach 0x4F [] [(0x1000, 0xBEEF)]) 0x10000810 (fun t => (t.regs.g1, t.pc, fl t)) = some (0xBEEF, 0x0104, 0x4F) ∧
      run (mach 0x40 [(.g2, 0xFFFE)] [(0, 0xCAFE)]) 0x00020912 (·.regs.g1) = some 0xCAFE ∧
      run (mach 0x40 [] [(0x2FFE, 0xBEEF)]) 0x0B1F (fun t => (t.regs.g1, t.pc)) = some (0xBEEF, 0x0102) ∧
      run (mach 0x40 [] [(0x2FF0, 0x0088)]) 0x0B18 (·.regs.g1) = some 0x0088 := by decide +kernel

theorem test_ld_other :
    run (mach 0x40 [] []) 0x0D58 (·.regs.g5) = some 0xFFF8 ∧
      run (mach 0x40 [(.g3, 0x2001)] [(0x2000, 0xCDAB)]) 0x0F23 (·.regs.g2) = some 0x00AB ∧
      run (mach 0x40 [(.g3, 0x2000)] [(0x2000, 0xAB12)]) 0x0F23 (·.regs.g2) = some 0x00AB ∧
      run (mach 0x40 [] []) 0xD0000AD0 (fun t => (t.regs.ssp, t.regs.usp)) = some (0xD000, 0x8000) ∧
      run (mach 0x00 [] []) 0xD0000AD0 (fun t => (t.regs.ssp, t.regs.usp)) = some (0xE000, 0xD000) := by decide +kernel

theorem test_ldFlag : run (mach 0xC5 [] []) 0x1400 (fun t => (t.regs.g0, fl t)) = some (0xC5, 0xC5) := by decide +kernel

theorem test_st :
    run (mach 0x40 [(.g1, 0x1234)] []) 0x10001010 (fun t => (t.mem.read 0x1000, t.mem.read 0x1001)) = some (0x12, 0x34) ∧
      run (mach 0x40 [(.g1, 0x1234), (.g2, 0x2001)] [(0x2000, 0x5555)]) 0x1712
        (fun t => (t.mem.read 0x2000, t.mem.read 0x2001)) = some (0x55, 0x34) ∧
      stops (mach 0x40 [] []) 0xF0001010 = some .romWrite := by decide +kernel

theorem test_add :
    run (mach 0x4F [(.g0, 0x7FFF), (.g1, 1)] []) 0x1C01 (fun t => (t.regs.g0, fl t, t.pc)) =
        some (0x8000, 0x4A, 0x0102) ∧
      run (mach 0x40 [(.g0, 0x8000), (.g1, 0x8000)] []) 0x1C01 (fun t => (t.regs.g0, fl t)) = some (0, 0x4D) := by
  decide +kernel

theorem test_sub :
    run (mach 0x40 [(.g0, 5), (.g1, 7)] []) 0x2401 (fun t => (t.regs.g0, fl t)) = some (0xFFFE, 0x46) ∧
      run (mach 0x40 [(.g0, 0x8000), (.g1, 1)] []) 0x2401 (fun t => (t.regs.g0, fl t)) = some (0x7FFF, 0x48) := by
  decide +kernel

theorem test_cmp :
    run (mach 0x40 [(.g0, 0x7FFF), (.g1, 0x8000)] []) 0x2C01 (fun t => (t.regs.g0, fl t)) = some (0x7FFF, 0x4E) ∧
      run (mach 0x40 [(.g0, 1), (.g1, 0xFFFF)] []) 0x2C01 fl = some 0x44 := by decide +kernel

/-- C and V are open, so only S and Z are looked at. -/
theorem test_logic :
    run (mach 0x4F [(.g0, 0x1234)] []) 0x00FF3200 (fun t => (t.regs.g0, sz t)) = some (0x34, false, false) ∧
      run (mach 0x40 [(.g0, 0x8000), (.g1, 1)] []) 0x3C01 (fun t => (t.regs.g0, sz t)) = some (0x8001, true, false) ∧
      run (mach 0x40 [(.g0, 0xABCD)] []) 0x4400 (fun t => (t.regs.g0, sz t)) = some (0, false, true) := by
  decide +kernel

theorem test_adds :
    run (mach 0x40 [(.g0, 0x1000), (.g1, 3)] []) 0x4C01 (fun t => (t.regs.g0, sz t)) = some (0x1006, false, false) ∧
      run (mach 0x40 [(.g1, 0x8000)] []) 0x4C01 (fun t => (t.regs.g0, sz t)) = some (0, false, true) := by
  decide +kernel

/-- The rows whose results hold for both values of DIV_SIGNED (95_test_vectors.md 2.4, 3.5). -/
theorem test_mul_mull :
    run (mach 0x40 [(.g0, 7)] []) 0x550E (·.regs.g0) = some 0xFFF2 ∧
      run (mach 0x40 [(.g0, 0x0100), (.g1, 0x0100)] []) 0x5401 (·.regs.g0) = some 0 ∧
      run (mach 0x40 [(.g2, 0x1234), (.g1, 0x5678)] []) 0x6C21 (fun t => (t.regs.g2, t.regs.g3)) =
        some (0x0060, 0x0626) ∧
      run (mach 0x40 [(.g10, 0x0100)] []) 0x6CAA (fun t => (t.regs.g10, t.regs.g11)) = some (0, 1) := by decide +kernel

theorem test_div_mod_divl :
    run (mach 0x40 [(.g0, 0x64), (.g1, 7)] []) 0x5C01 (·.regs.g0) = some 0x0E ∧
      run (mach 0x40 [(.g0, 0x64), (.g1, 7)] []) 0x6401 (·.regs.g0) = some 2 ∧
      run (mach 0x40 [(.g3, 0x0626), (.g2, 0x67), (.g1, 0x5678)] []) 0x7421 (fun t => (t.regs.g2, t.regs.g3)) =
        some (0x1234, 7) ∧
      stops (mach 0x40 [(.g3, 3), (.g1, 3)] []) 0x7421 = some .quotientOverflow := by decide +kernel

/-- Operands for which the two readings of DIV differ: each reading gives what 95_test_vectors.md 2.4 prints. -/
theorem test_div_signs :
    unsignedQuotient 0xFFFF 2 = 0x7FFF ∧ signedQuotient 0xFFF9 2 0 = 0xFFFD ∧ signedRemainder 0xFFF9 2 = 0xFFFF ∧
      unsignedProduct 0xFFFF 0xFFFF = 0xFFFE0001 := by decide +kernel

theorem test_shifts :
    run (mach 0x4F [(.g0, 0x4000)] []) 0x8501 (fun t => (t.regs.g0, sz t)) = some (0x8000, true, false) ∧
      run (mach 0x4F [(.g0, 3)] []) 0x8C00 (·.regs.g0) = some 0x18 ∧
      run (mach 0x4F [(.g0, 0xF234)] []) 0x9504 (fun t => (t.regs.g0, sz t)) = some (0xFF23, true, false) ∧
      run (mach 0x4F [(.g0, 0x8000), (.g1, 15)] []) 0x9C01 (·.regs.g0) = some 1 ∧
      stops (mach 0x4F [(.g0, 0x8000)] []) 0x9D0F = some .shiftCount := by decide +kernel

theorem test_jumps :
    run (mach 0x41 [] []) 0x0200A000 (·.pc) = some 0x0200 ∧ run (mach 0x40 [] []) 0x0200A000 (·.pc) = some 0x0104 ∧
      run (mach 0x40 [(.g2, 0x0300)] []) 0x0010A182 (·.pc) = some 0x0310 ∧
      run (mach 0x40 [(.g3, 0x0400)] []) 0xA6F3 (·.pc) = some 0x0400 ∧
      run (mach 0x4A [] []) 0x0200A040 (·.pc) = some 0x0200 ∧ run (mach 0x48 [] []) 0x0200A070 (·.pc) = some 0x0200 ∧
      run (mach 0x44 [] []) 0x0200A0C0 (·.pc) = some 0x0104 ∧ run (mach 0x44 [] []) 0x0200A0E0 (·.pc) = some 0x0200 ∧
      run (mach 0x40 [] []) 0x0201A0F0 (·.pc) = some 0x0201 := by decide +kernel

/-- The sets of jumps taken after a comparison, in the order of the condition numbers 0 to C, E
(95_test_vectors.md 2.3). -/
theorem test_conditions :
    let taken (w : Nat) : List Bool := ([0x0, 0x1, 0x2, 0x3, 0x4, 0x5, 0x6, 0x7, 0x8, 0x9, 0xA, 0xB, 0xC, 0xE] : List Nat).map
      fun c => run (mach (BitVec.ofNat 16 w) [] []) (0x0200A000 + 16 * c) (·.pc) == some 0x0200
    taken 0x41 = [true, false, false, false, false, true, true, false, false, true, true, true, false, true] ∧
      taken 0x46 = [false, true, true, false, false, false, true, true, true, false, false, true, false, true] ∧
      taken 0x4E = [false, true, true, true, true, true, false, false, true, false, false, false, false, true] ∧
      taken 0x48 = [false, false, false, true, false, false, true, true, true, true, true, false, true, false] := by
  decide +kernel

theorem test_call :
    run (mach 0x40 [] []) 0x0300A800 (fun t => (t.regs.ssp, loadWord t.mem 0xDFFE, t.pc)) =
        some (0xDFFE, 0x0104, 0x0300) ∧
      run (mach 0x00 [(.g1, 0x0300)] []) 0xAE01 (fun t => (t.regs.usp, loadWord t.mem 0x7FFE, t.pc, t.regs.ssp)) =
        some (0x7FFE, 0x0102, 0x0300, 0xE000) ∧
      run (mach 0x40 [] []) 0xAE0D (fun t => (t.pc, t.regs.ssp)) = some (0xE000, 0xDFFE) ∧
      run (mach 0x00 [(.usp, 0x8001)] [(0xFFF4, 0x0700)]) 0x0300A800
        (fun t => (t.regs.usp, t.regs.ssp, loadWord t.mem 0xDFFC, t.pc)) = some (0x8001, 0xDFFC, 0, 0x0700) := by
  decide +kernel

/-- The value an IN delivers is the supplied free value under the zero bits of the port; the mode port delivers the mode
(45_io_stack.md R181). -/
theorem test_in :
    run { mach 0x40 [] [] with free := [{ word := 0xFF41, flags := default }] } 0x0008B000
        (fun t => (t.regs.g0, t.dev.ftdiRx, t.pc)) = some (0x41, 0x41, 0x0104) ∧
      run { mach 0x40 [(.g1, 0x1F)] [] with free := [{ word := 0xFFFF, flags := default }] } 0xB701
        (fun t => (t.regs.g0, t.pc)) = some (1, 0x0102) ∧
      run (mach 0x00 [(.g0, 0x5555)] [(0xFFFA, 0x0760)]) 0x0008B000
        (fun t => (t.regs.g0, loadWord t.mem 0xDFFC, t.pc, fl t)) = some (0x5555, 0, 0x0760, 0x40) := by decide +kernel

theorem test_out :
    run (mach 0x40 [(.g0, 0x8001)] []) 0x0002B800 (fun t => (t.outputs, t.dev.timer0Control)) =
        some ([{ port := 2, width := .word, value := 0x8001 }], 0x8001) ∧
      run (mach 0x40 [(.g0, 0x1241), (.g1, 9)] []) 0xBF01 (fun t => (t.outputs, t.dev.ftdiTx)) =
        some ([{ port := 9, width := .byte, value := 0x41 }], 0x41) ∧
      run (mach 0x40 [(.g0, 0x1000), (.g1, 0xF4)] []) 0xBE01 (fun t => (t.limitLo, t.limitHi)) = some (0x1000, 0xFFFF) ∧
      stops (mach 0x40 [] []) 0x0100B800 = some .ioAddress ∧
      stops (mach 0x40 [(.g1, 9)] []) 0xBE01 = some .ioOddWord ∧
      stops (mach 0x40 [(.g1, 0xF7)] []) 0xBF01 = some .limitByteOut := by decide +kernel

theorem test_push :
    run (mach 0x40 [] []) 0xC0D0 (fun t => (t.regs.ssp, loadWord t.mem 0xDFFE)) = some (0xDFFE, 0xE000) ∧
      run (mach 0x00 [(.g1, 0xBEEF)] []) 0xC010 (fun t => (t.regs.usp, loadWord t.mem 0x7FFE, t.regs.ssp)) =
        some (0x7FFE, 0xBEEF, 0xE000) ∧
      run (mach 0x40 [(.g1, 0xBEEF), (.ssp, 0)] []) 0xC010 (fun t => (t.regs.ssp, loadWord t.mem 0xFFFE)) =
        some (0xFFFE, 0xBEEF) := by decide +kernel

theorem test_pop :
    run (mach 0x40 [(.ssp, 0xDFFE)] [(0xDFFE, 0xBEEF)]) 0xC420 (fun t => (t.regs.g2, t.regs.ssp)) =
        some (0xBEEF, 0xE000) ∧
      run (mach 0x40 [(.ssp, 0xDFFE)] [(0xDFFE, 0x1234)]) 0xC4D0 (·.regs.ssp) = some 0x1234 := by decide +kernel

theorem test_ret_reti :
    run (mach 0x40 [(.ssp, 0xDFFE)] [(0xDFFE, 0x0104)]) 0xD000 (fun t => (t.pc, t.regs.ssp)) = some (0x0104, 0xE000) ∧
      run (mach 0x40 [(.ssp, 0xDFFC)] [(0xDFFC, 0x0085), (0xDFFE, 0x0234)]) 0xD400
        (fun t => (fl t, t.pc, t.regs.ssp, t.regs.usp)) = some (0x85, 0x0234, 0xE000, 0x8000) ∧
      run (mach 0x40 [(.ssp, 0xDFFC)] [(0xDFFC, 0xFFFF), (0xDFFE, 0x0234)]) 0xD400 fl = some 0xCF ∧
      run (mach 0x00 [(.usp, 0x7FFC)] [(0x7FFC, 0x00CF), (0x7FFE, 0x0234)]) 0xD400
        (fun t => (fl t, t.pc, t.regs.usp, t.regs.ssp)) = some (0x0F, 0x0234, 0x8000, 0xE000) := by decide +kernel

theorem test_ei_di_halt :
    run (mach 0x41 [] []) 0xE000 (fun t => (fl t, t.pc)) = some (0xC1, 0x0102) ∧
      run (mach 0xC1 [] []) 0xE400 (fun t => (fl t, t.pc)) = some (0x41, 0x0102) ∧
      run (mach 0x01 [] [(0xFFFA, 0x0760)]) 0xE000 (fun t => (fl t, t.pc, loadWord t.mem 0xDFFC)) =
        some (0x41, 0x0760, 0x0001) ∧
      run (mach 0x40 [] []) 0xFF00 (fun t => (t.halted, t.pc, fl t)) = some (true, 0x0102, 0x40) ∧
      run (mach 0x00 [] [(0xFFFA, 0x0760)]) 0xFF00 (fun t => (t.halted, t.pc)) = some (false, 0x0760) := by
  decide +kernel

theorem test_svc :
    run (mach 0x85 [] [(0xFFFE, 0x0800)]) 0xF000
        (fun t => (t.regs.ssp, loadWord t.mem 0xDFFC, loadWord t.mem 0xDFFE, fl t, t.pc)) =
        some (0xDFFC, 0x0085, 0x0102, 0x45, 0x0800) ∧
      run (mach 0x40 [(.ssp, 0xE001)] []) 0xF000 (·.pc) = none := by decide +kernel

theorem test_exceptions :
    run (mach 0x40 [(.g2, 0x2001)] [(0xFFF4, 0x0700)]) 0x0E12
        (fun t => (t.regs.g1, t.regs.ssp, loadWord t.mem 0xDFFC, t.pc, fl t)) = some (0, 0xDFFC, 0x40, 0x0700, 0x40) ∧
      run (mach 0x40 [] [(0xFFFC, 0x0720)]) 0x1210 (·.pc) = some 0x0720 ∧
      run (mach 0x40 [] [(0xFFFC, 0x0720)]) 0x0200A0D0 (·.pc) = some 0x0720 ∧
      run (mach 0x0F [(.g0, 0x64)] [(0xFFF8, 0x0740)]) 0x5C01
        (fun t => (t.regs.g0, loadWord t.mem 0xDFFC, t.pc, fl t)) = some (0x64, 0x0F, 0x0740, 0x4F) := by decide +kernel

/-- limit_lo = 0100h, limit_hi = 0FFFh (95_test_vectors.md 2.9). -/
theorem test_protection :
    let lim (s : State) : State := { s with limitLo := 0x0100, limitHi := 0x0FFF }
    run (lim (mach 0x00 [] [(0x0FFE, 0xBEEF)])) 0x0FFE0810 (·.regs.g1) = some 0xBEEF ∧
      run (lim (mach 0x00 [] [(0xFFF6, 0x0780)])) 0x10000810 (fun t => (t.pc, t.regs.ssp, fl t)) =
        some (0x0780, 0xDFFC, 0x40) ∧
      run (lim (mach 0x40 [] [(0x1000, 0xBEEF)])) 0x10000810 (·.regs.g1) = some 0xBEEF := by decide +kernel

/-- Two requests pending: the lower vector is accepted, the instruction at PC is saved, not executed
(95_test_vectors.md 2.10, 3.6). -/
theorem test_interrupt :
    let s : State := { mach 0xC0 [] [(0xFFE0, 0x0300), (0xFFE2, 0x0320)] with pending := 3 }
    (match step s with
      | .next t => some (t.pending, t.regs.ssp, loadWord t.mem 0xDFFE, loadWord t.mem 0xDFFC, fl t, t.pc)
      | _ => none) = some (2, 0xDFFC, 0x0100, 0x00C0, 0x40, 0x0300) ∧
      (match step { s with flag := flagOfWord 0x40 } with
        | .next t => some (t.pc, t.pending)
        | _ => none) = some (0x0102, 3) := by decide +kernel

theorem test_refused_words :
    stops (mach 0x40 [] []) 0x0001 = some .padNonZero ∧ stops (mach 0x40 [] []) 0x0C1F = some .pcOperand ∧
      stops (mach 0x40 [] []) 0x6C12 = some .pairRegister := by decide +kernel

/-- State counts (70_reset_and_hazards.md R275, R276; the row sums of 95_test_vectors.md 3.1). -/
theorem test_states :
    let f (w : Word) : Flag := flagOfWord w
    stateCount (f 0x40) 0 (.ld .g1 (.imm 10)) = 5 ∧ stateCount (f 0x40) 0 (.add .g0 (.reg .g1)) = 5 ∧
      stateCount (f 0x40) 0 (.jnz (.direct 6)) = 5 ∧ stateCount (f 0x41) 0 (.jnz (.direct 6)) = 4 ∧
      stateCount (f 0x40) 2 (.shll .g6 (.imm4 2)) = 7 ∧ stateCount (f 0x40) 0 .svc = 12 := by decide +kernel

/-! ## Witnesses

For each statement with hypotheses, concrete values that meet them together; for a statement of several clauses, values at
the edges of each clause. -/

def isNext : Outcome → Bool
  | .next _ => true
  | _ => false

theorem exists_next {o : Outcome} (h : isNext o = true) : ∃ t, o = .next t := by
  cases o with
  | next t => exact ⟨t, rfl⟩
  | fault _ => cases h
  | refused _ => cases h

/-- Privileged mode; G1 holds an odd address, G2 an even one. -/
def priv : State := mach 0x40 [(.g0, 0x1234), (.g1, 0x2001), (.g2, 0x2000)] [(0x0100, 0x0A10), (0x2000, 0xAB12)]

/-- User mode, limits 0100h to 8FFFh. -/
def user : State := { priv with flag := flagOfWord 0x00, limitLo := 0x0100, limitHi := 0x8FFF }

/-- `s` with SP's two registers at `a`. -/
def at_sp (s : State) (a : Word) : State := { s with regs := { s.regs with ssp := a, usp := a } }

theorem witness_DecodeOfEncode :
    (Instr.ld .g1 (.mem (.indexed 2 .g2))).wellFormed = true ∧ ∀ w ∈ ([2] : List Word), w = 2 :=
  ⟨by decide, by simp⟩

theorem witness_EncodeOfDecode :
    decode 0x0912 2 = .ok (.ld .g1 (.mem (.indexed 2 .g2))) ∧ decode 0xFF00 0 = .ok .halt := by decide +kernel

/-- OP 08h, 0Ah with, 0Bh, BFh, C0h without a second word. -/
theorem witness_SecondWordFromFirstWord :
    decode 0x0810 0 = .ok (.ld .g1 (.mem (.direct 0))) ∧ decode 0x0A10 0 = .ok (.ld .g1 (.imm 0)) ∧
      decode 0x0B10 0 = .ok (.ld .g1 (.mem (.fpRel 0))) ∧ decode 0xBF01 0 = .ok (.out .g0 (.byteIndirect .g1)) ∧
      decode 0xC000 0 = .ok (.push .g0) := by decide +kernel

theorem witness_UndefinedAndPadWordsExactly :
    (undefinedWord 0x0100 ∧ undefinedWord 0xA6D3) ∧ (¬undefinedWord 0x0811 ∧ nonZeroPad 0x0811) ∧
      (¬undefinedWord 0xA810 ∧ nonZeroPad 0xA810) ∧ ¬undefinedWord 0xFF01 ∧ nonZeroPad 0xFF01 := by
  simp only [undefinedWord, nonZeroPad]
  refine ⟨?_, ?_, ?_, ?_⟩ <;> decide +kernel

theorem witness_StepRunsDecodedInstruction :
    (priv.executes ∧ readWord priv .fetch priv.pc = .ok 0x0A10 ∧ decode 0x0A10 0 = .ok (.ld .g1 (.imm 0)) ∧
      readWord priv .fetch (priv.pc + 2) = .ok 0) ∧
      (priv.goto 0x0102).executes ∧ readWord (priv.goto 0x0102) .fetch 0x0102 = .ok 0 ∧ decode 0 0 = .ok .no ∧
      Instr.no.extraWords = 0 := by
  simp only [State.executes]; decide +kernel

theorem witness_StepRunsLoadedWord :
    priv.Inv ∧ priv.flag.p = true ∧ isOdd priv.pc = false ∧
      decodeTableWord 32 0x12340A10 = some (.ld .g1 (.imm 0x1234)) := by
  simp only [State.Inv]; decide +kernel

/-- An odd PC; then an undefined word and a pad, the second in user mode. -/
theorem witness_OrderOfDecodeTimeStops :
    (priv.goto 0x0101).executes ∧ readWord (priv.goto 0x0101) .fetch 0x0101 = .raise .invalidAddress ∧
      (user.withFetchWord 16 0x0811).executes ∧ readWord (user.withFetchWord 16 0x0811) .fetch 0x0100 = .ok 0x0811 := by
  simp only [State.executes]; decide +kernel

/-- The words of the decode-time clauses: undefined, pad, privileged in user mode, ill-formed (6C12h is not privileged,
B70Fh is). -/
theorem witness_OrderOfDecodeTimeStops_words :
    (undefinedWord 0x0100 ∧ ¬undefinedWord 0x0811 ∧ nonZeroPad 0x0811) ∧
      (user.flag.p = false ∧ opField 0xE000 = 0xE0 ∧ ¬undefinedWord 0xE000) ∧ ¬nonZeroPad 0xE000 ∧
      (decode 0x6C12 0 = .error (.illFormed .pairRegister) ∧ opField 0x6C12 = 0x6C ∧ ¬undefinedWord 0x6C12) ∧
      ¬nonZeroPad 0x6C12 ∧
      (decode 0xB701 0 = .ok (.inp .g0 (.byteIndirect .g1)) ∧ decode 0xB70F 0 = .error (.illFormed .pcOperand) ∧
        opField 0xB70F = 0xB7 ∧ ¬undefinedWord 0xB70F) ∧ ¬nonZeroPad 0xB70F := by
  simp only [undefinedWord, nonZeroPad]
  refine ⟨?_, ?_, ?_, ?_, ?_, ?_, ?_⟩ <;> decide +kernel

/-- In user mode privilege comes before register field F, and in privileged mode register F is refused
(30_encoding.md R101). -/
theorem test_in_register_f :
    run (mach 0x00 [] [(0xFFFA, 0x0760)]) 0xB70F (·.pc) = some 0x0760 ∧ stops priv 0xB70F = some .pcOperand := by
  decide +kernel

/-- A second word outside the limits. -/
theorem witness_OrderOfDecodeTimeStops_second :
    let s : State := { user with pc := 0x8FFE, mem := storeWord user.mem 0x8FFE 0x0A10 }
    s.executes ∧ readWord s .fetch 0x8FFE = .ok 0x0A10 ∧ decode 0x0A10 0 = .ok (.ld .g1 (.imm 0)) ∧
      (Instr.ld .g1 (.imm 0)).extraWords = 1 ∧ readWord s .fetch (0x8FFE + 2) = .raise .addressLimitViolation := by
  simp only [State.executes]; decide +kernel

/-- The first and the last source; E clear; nothing pending. -/
theorem witness_InterruptAcceptance :
    let s : State := { priv with flag := flagOfWord 0xC0, pending := 0x201 }
    let s9 : State := { priv with flag := flagOfWord 0xC0, pending := 0x200 }
    (s.halted = false ∧ s.flag.e = true ∧ (deliver s).pending.getLsbD 0 = true ∧
      ∀ j : Fin 10, j < 0 → (deliver s).pending.getLsbD j.val = false) ∧
      (s9.flag.e = true ∧ (deliver s9).pending.getLsbD 9 = true ∧
        ∀ j : Fin 10, j < 9 → (deliver s9).pending.getLsbD j.val = false) ∧
      priv.halted = false ∧ priv.flag.e = false ∧ (deliver priv).pending = 0 := by decide +kernel

theorem witness_HaltedStepDoesNothing : (priv.setHalted true).halted = true := rfl

theorem witness_RequestsNeedEnableBits :
    ({ priv with arrivals := [0x3FF, 1] } : State).arrivals = 0x3FF :: [1] := rfl

/-- SSP at the edges of the ROM and of the address space. -/
theorem witness_TrapEntryEffect :
    priv.Inv ∧ priv.canTrap ∧ (at_sp priv 0xF000).canTrap ∧ (at_sp priv 0xFFE4).canTrap ∧ (at_sp priv 0).canTrap ∧
      ¬(at_sp priv 0xE001).canTrap ∧ ¬(at_sp priv 0xF002).canTrap ∧ ¬(at_sp priv 0xFFE2).canTrap := by
  simp only [State.Inv, State.canTrap]; decide +kernel

theorem witness_TrapThenRetiReturns : user.Inv ∧ user.canTrap := by
  simp only [State.Inv, State.canTrap]; decide +kernel

/-- An odd word address, for a one-register and for a pair instruction; an address outside the limits. -/
theorem witness_OperandExceptionIsTaken :
    ((Instr.add .g0 (.mem (.indirect .g1))).wellFormed = true ∧
      operand priv (.mem (.indirect .g1)) = .raise .invalidAddress) ∧
      (Instr.divl .g2 (.mem (.direct 0x2001))).wellFormed = true ∧
      operand priv (.mem (.direct 0x2001)) = .raise .invalidAddress ∧
      operand user (.mem (.direct 0x9000)) = .raise .addressLimitViolation := by decide +kernel

theorem witness_MemoryReadRule :
    let protect (a : Word) (n : Nat) : Bool := limitViolation user .read a n
    (isOdd 0x0101 = true) ∧ (isOdd 0x9000 = false ∧ protect 0x9000 2 = true) ∧ (protect 0x00FE 2 = true) ∧
      (isOdd 0x8FFE = false ∧ protect 0x8FFE 2 = false) ∧ (isOdd 0x0100 = false ∧ protect 0x0100 2 = false) ∧
      protect 0x9000 1 = true ∧ protect 0x00FF 1 = true ∧ protect 0x8FFF 1 = false ∧ protect 0x0100 1 = false := by
  decide +kernel

theorem witness_MemoryWriteRule :
    let protect (s : State) (a : Word) (n : Nat) : Bool := limitViolation s .write a n
    priv.Inv ∧ isOdd 0xF001 = true ∧ (isOdd 0x9000 = false ∧ protect user 0x9000 2 = true) ∧
      (isOdd 0xF000 = false ∧ protect priv 0xF000 2 = false ∧ romByte (0xF000 : Word).toNat) ∧
      (isOdd 0xFFDE = false ∧ romByte (0xFFDE : Word).toNat) ∧
      (isOdd 0xEFFE = false ∧ protect priv 0xEFFE 2 = false ∧ ¬romByte (0xEFFE : Word).toNat) ∧
      (isOdd 0xFFE0 = false ∧ ¬romByte (0xFFE0 : Word).toNat) ∧ protect user 0x9000 1 = true ∧
      (protect priv 0xFFDF 1 = false ∧ romByte (0xFFDF : Word).toNat) ∧
      protect priv 0xEFFF 1 = false ∧ ¬romByte (0xEFFF : Word).toNat := by
  simp only [State.Inv, romByte]; decide +kernel

theorem witness_LimitCheckDefault :
    1 ≤ 2 ∧ limitViolation user .read 0x8FFF 2 = true ∧ limitViolation user .read 0x8FFE 2 = false ∧
      user.flag.p = false ∧ user.protectRule = .closedRange ∧ ¬user.inLimits ((0x8FFF : Word).toNat + 1) ∧
      (priv.flag.p = true ∧ limitViolation { priv with limitLo := 1, limitHi := 0 } .write 0 2 = false) ∧
      State.reset.flag.p = true ∧ limitViolation State.reset .fetch 0xF000 2 = false := by
  simp only [State.inLimits]; decide +kernel

theorem witness_EffectiveAddresses :
    readReg priv .g2 = .ok 0x2000 ∧ readReg priv .sp = .ok 0xE000 ∧ readReg user .sp = .ok 0x8000 := by decide +kernel

theorem witness_OperandOfEachMode :
    (locAddr priv (.direct 0x8FFE) = .ok 0x8FFE ∧ resolve priv .g2 = .ok .g2 ∧ Loc.width (.direct 0x8FFE) = .word ∧
      user.canRead 0x8FFE) ∧
      (locAddr priv (.indirect .g1) = .ok 0x2001 ∧ Loc.width (.indirect .g1) = .word ∧ isOdd 0x2001 = true) ∧
      (isOdd 0x9000 = false ∧ locAddr user (.direct 0x9000) = .ok 0x9000 ∧ ¬user.allows .read 0x9000 2) ∧
      (locAddr priv (.byteIndirect .g1) = .ok 0x2001 ∧ Loc.width (.byteIndirect .g1) = .byte ∧ user.allows .read 0x8FFF 1) ∧
      locAddr (user.setReg .g1 0x9000) (.byteIndirect .g1) = .ok 0x9000 ∧ ¬user.allows .read 0x9000 1 ∧
      (isOdd 0x00FE = false ∧ ¬user.allows .read 0x00FE 2 ∧ ¬user.allows .read 0x00FF 1) := by
  simp only [State.canRead, State.allows]; decide +kernel

theorem witness_RegisterNumbers : priv.flag.p = true ∧ user.flag.p = false := by decide +kernel

theorem witness_MoveResults :
    resolve priv .g0 = .ok .g0 ∧ operand priv (.mem (.direct 0x2000)) = .ok 0xAB12 ∧
      operand priv (.mem (.direct 0x2001)) = .raise .invalidAddress := by decide +kernel

theorem witness_StoreResult :
    priv.Inv ∧ resolve priv .g0 = .ok .g0 ∧ locAddr priv (.direct 0xEFFE) = .ok 0xEFFE ∧
      Loc.width (.direct 0xEFFE) = .word ∧ priv.canWrite 0xEFFE ∧ user.canWrite 0x8FFE ∧ isOdd 0x8FFF = true ∧
      (isOdd 0x9000 = false ∧ ¬user.allows .write 0x9000 2) ∧
      (isOdd 0xF000 = false ∧ priv.allows .write 0xF000 2 ∧ inRom 0xF000 = true) ∧
      (locAddr priv (.byteIndirect .g1) = .ok 0x2001 ∧ Loc.width (.byteIndirect .g1) = .byte ∧ priv.canWriteByte 0x2001) ∧
      ¬user.allows .write 0x9000 1 ∧ priv.allows .write 0xFFDF 1 ∧ inRom 0xFFDF = true := by
  simp only [State.Inv, State.canWrite, State.canWriteByte, State.allows]; decide +kernel

theorem witness_AddAndSubResults :
    resolve priv .g0 = .ok .g0 ∧ operand priv (.mem (.byteIndirect .g1)) = .ok 0x12 := by decide +kernel

theorem witness_CompareThenJump :
    resolve user .sp = .ok .usp ∧ operand user (.imm4 0x8) = .ok 0xFFF8 ∧ targetAddr user (.indirect .g2) = .ok 0x2000 ∧
      ∀ t, targetAddr t (.direct 0x0200) = .ok 0x0200 :=
  ⟨rfl, by decide +kernel, rfl, fun _ => rfl⟩

theorem witness_LogicResults : resolve priv .g2 = .ok .g2 ∧ operand priv (.reg .g0) = .ok 0x1234 := by decide +kernel

theorem witness_AddScaledResult : resolve priv .fp = .ok .fp ∧ operand priv (.reg .fp) = .ok 0x3000 := by
  decide +kernel

/-- One of the two readings holds; which one is open. -/
theorem witness_divSigned : Config.divSigned = false ∨ Config.divSigned = true := by
  cases Config.divSigned <;> simp

theorem witness_MultiplyResults :
    operand priv (.imm 0xFFFF) = .ok 0xFFFF ∧ resolve priv .g1 = .ok .g1 ∧ pairOf .g10 = .ok (.g10, .g11) := by
  decide +kernel

/-- A zero and a non-zero divisor; operands other than -32768 and -1. -/
theorem witness_DivideAndModulo :
    resolve priv .g0 = .ok .g0 ∧ operand priv (.imm 0) = .ok 0 ∧ operand priv (.imm 0xFFFF) = .ok 0xFFFF ∧
      (0xFFFF : Word) ≠ 0 ∧ ¬((priv.regs.get .g0).toInt = -32768 ∧ (0xFFFF : Word).toInt = -1) := by decide +kernel

/-- Rd + 1 = 0002h, Rd = FFFFh, divisor 3: the largest quotient that fits without a sign, and with Rd + 1 = 0003h the
smallest that does not; -32768 and 32767 with a sign, and -32769 and 32768. -/
theorem witness_DivideLong :
    let s : State := (priv.setReg .g3 2).setReg .g2 0xFFFF
    let n : State := (priv.setReg .g3 0xFFFF).setReg .g2 0x8000
    let i (s : State) : Int := 65536 * (s.regs.get .g3).toInt + (s.regs.get .g2).toNat
    pairOf .g2 = .ok (.g2, .g3) ∧ operand s (.imm 0) = .ok 0 ∧ operand s (.imm 3) = .ok 3 ∧ (3 : Word) ≠ 0 ∧
      (s.regs.get .g3).toNat < (3 : Word).toNat ∧ (3 : Word).toNat ≤ ((s.setReg .g3 3).regs.get .g3).toNat ∧
      (-32768 = (i n).tdiv (1 : Word).toInt) ∧ (i (priv.setReg .g2 0x7FFF)).tdiv (1 : Word).toInt = 32767 ∧
      (i (n.setReg .g2 0x7FFF)).tdiv (1 : Word).toInt = -32769 ∧
      (i (priv.setReg .g2 0x8000)).tdiv (1 : Word).toInt = 32768 := by
  decide +kernel

theorem witness_DivideLongUndoesMultiplyLong :
    pairOf .g2 = .ok (.g2, .g3) ∧ operand priv (.imm 0xFFFF) = .ok 0xFFFF ∧ (0xFFFF : Word) ≠ 0 ∧
      ∃ t, exec (.mull .g2 (.imm 0xFFFF)) priv = .next t ∧ operand t (.imm 0xFFFF) = .ok 0xFFFF :=
  ⟨rfl, rfl, by decide, _, rfl, rfl⟩

/-- The counts 15 and 16. -/
theorem witness_ShiftResults :
    resolve priv .g0 = .ok .g0 ∧ operand priv (.imm 15) = .ok 15 ∧ (15 : Word).toNat ≤ 15 ∧
      operand priv (.imm 16) = .ok 16 ∧ 16 ≤ (16 : Word).toNat := by decide +kernel

theorem witness_JumpsOnOneFlag :
    targetAddr priv (.indexed 0x0010 .g2) = .ok 0x2010 ∧ targetAddr user (.indirect .sp) = .ok 0x8000 := by
  decide +kernel

/-- Flags for which each relation holds, and flags for which it does not. -/
theorem witness_JumpsOnRelations :
    targetAddr priv (.direct 0x0200) = .ok 0x0200 ∧
      (let f := flagOfWord 0x4A
      f.z = false ∧ f.s = f.v ∧ f.c = false) ∧
      (let f := flagOfWord 0x4D
      f.z = true ∧ f.s ≠ f.v ∧ f.c = true) := by decide +kernel

theorem witness_CallAndPush :
    (priv.Inv ∧ targetAddr priv (.indirect .sp) = .ok 0xE000 ∧ resolve priv .sp = .ok .ssp ∧
      priv.canWrite (priv.regs.get (spOf priv) - 2)) ∧
      user.canWrite (user.regs.get (spOf user) - 2) ∧
      (let s := at_sp user 0x9000
      s.canWrite (s.regs.get (spOf s) - 2)) ∧
      (let s := at_sp user 0x8001
      isOdd (s.regs.get (spOf s)) = true) ∧
      (let s := at_sp user 0x0100
      isOdd (s.regs.get (spOf s)) = false ∧ ¬s.allows .write (s.regs.get (spOf s) - 2) 2) ∧
      (let s := at_sp priv 0xF002
      isOdd (s.regs.get (spOf s)) = false ∧ s.allows .write (s.regs.get (spOf s) - 2) 2 ∧
        inRom (s.regs.get (spOf s) - 2) = true) ∧
      (let s := at_sp priv 0xFFE0
      inRom (s.regs.get (spOf s) - 2) = true) ∧
      (let s := at_sp priv 0xF000
      inRom (s.regs.get (spOf s) - 2) = false) := by
  simp only [State.Inv, State.canWrite, State.allows]; decide +kernel

theorem witness_PopAndRet :
    (resolve priv .g0 = .ok .g0 ∧ priv.canRead (priv.regs.get (spOf priv)) ∧ Phys.g0 ≠ spOf priv) ∧
      (let s := at_sp user 0x8FFE
      s.canRead (s.regs.get (spOf s))) ∧
      (let s := at_sp user 0x8001
      isOdd (s.regs.get (spOf s)) = true) ∧
      (let s := at_sp user 0x9000
      isOdd (s.regs.get (spOf s)) = false ∧ ¬s.allows .read (s.regs.get (spOf s)) 2) := by
  simp only [State.canRead, State.allows]; decide +kernel

theorem witness_CallThenRetReturns :
    user.Inv ∧ targetAddr user (.direct 0x0300) = .ok 0x0300 ∧ user.canWrite (user.regs.get (spOf user) - 2) ∧
      user.canRead (user.regs.get (spOf user) - 2) := by
  simp only [State.Inv, State.canWrite, State.canRead, State.allows]; decide +kernel

theorem witness_PushThenPopCopies :
    priv.Inv ∧ resolve priv .g0 = .ok .g0 ∧ resolve priv .sp = .ok .ssp ∧
      priv.canWrite (priv.regs.get (spOf priv) - 2) ∧ priv.canRead (priv.regs.get (spOf priv) - 2) := by
  simp only [State.Inv, State.canWrite, State.canRead, State.allows]; decide +kernel

/-- I/O addresses 0100h, 00FFh (a word: refused; a byte: not), 00FEh; the mode port by word and by byte. -/
theorem witness_InResult :
    priv.flag.p = true ∧ resolve priv .g0 = .ok .g0 ∧
      (portEa priv (.direct 0x0100) = .ok 0x0100 ∧ 256 ≤ (0x0100 : Word).toNat) ∧
      (portEa priv (.direct 0x00FF) = .ok 0x00FF ∧ (0x00FF : Word).toNat < 256 ∧ Port.width (.direct 0x00FF) = .word ∧
        isOdd 0x00FF = true) ∧
      (portEa priv (.direct 0x00FE) = .ok 0x00FE ∧ isOdd 0x00FE = false) ∧
      portEa (priv.setReg .g1 0x00FF) (.byteIndirect .g1) = .ok 0x00FF ∧ Port.width (.byteIndirect .g1) = .byte ∧
      (portEa priv (.direct 0x001E) = .ok 0x001E ∧ (0x001E : Word).toNat = 0x1E ∧ Port.width (.direct 0x001E) = .word) ∧
      portEa (priv.setReg .g1 0x001F) (.byteIndirect .g1) = .ok 0x001F ∧ (0x001F : Word).toNat = 0x1F ∧
      priv.dev.mode = .taC := by
  decide +kernel

/-- The edges of the ranges of ports that deliver any value, and an even port in each. -/
theorem witness_InputZeroBits :
    let any (a : Byte) : Prop := a.toNat ≤ 0x07 ∨ 0x12 ≤ a.toNat ∧ a.toNat ≤ 0x17 ∨ 0x2E ≤ a.toNat ∧ a.toNat ≤ 0xFB
    (any 0x00 ∧ any 0x07 ∧ any 0x12 ∧ any 0x17 ∧ any 0x2E ∧ any 0xFB ∧ isOdd ((0x2E : Byte).setWidth 16) = false) ∧
      ¬any 0x08 ∧ ¬any 0x11 ∧ ¬any 0x18 ∧ ¬any 0x2D ∧ ¬any 0xFC := by decide +kernel

/-- The addresses of `witness_InResult`, and the edges of the limit ports F4h to F7h. -/
theorem witness_OutResult :
    let byteAt (a : Word) : Prop := portEa (priv.setReg .g1 a) (.byteIndirect .g1) = .ok a
    (byteAt 0xF4 ∧ 0xF4 ≤ (0xF4 : Word).toNat) ∧ (byteAt 0xF7 ∧ (0xF7 : Word).toNat ≤ 0xF7) ∧
      (byteAt 0xF3 ∧ ¬0xF4 ≤ (0xF3 : Word).toNat) ∧ (byteAt 0xF8 ∧ ¬(0xF8 : Word).toNat ≤ 0xF7) ∧
      portEa priv (.direct 0xF2) = .ok 0xF2 ∧ portEa priv (.direct 0xF4) = .ok 0xF4 ∧
      portEa priv (.direct 0xF6) = .ok 0xF6 ∧ portEa priv (.direct 0xF8) = .ok 0xF8 ∧
      isOdd 0xF2 = false ∧ isOdd 0xF8 = false := by
  decide +kernel

/-- The edges of the three ranges of ports that keep nothing, by word. -/
theorem witness_OutputRegistersByPort :
    let keepsNothing (a : Byte) : Prop :=
      (0x1E ≤ a.toNat ∧ a.toNat ≤ 0x26 ∨ 0x2E ≤ a.toNat ∧ a.toNat ≤ 0xF3 ∨ 0xFA ≤ a.toNat) ∧
        isOdd (a.setWidth 16) = false
    keepsNothing 0x1E ∧ keepsNothing 0x26 ∧ keepsNothing 0x2E ∧ keepsNothing 0xF2 ∧ keepsNothing 0xFA ∧
      keepsNothing 0xFE := by decide +kernel

/-- The edges of the three ranges of ports that keep nothing, by byte. -/
theorem witness_OutputRegistersByPort_bytes :
    let keepsNothing (a : Byte) : Prop :=
      0x1E ≤ a.toNat ∧ a.toNat ≤ 0x27 ∨ 0x2E ≤ a.toNat ∧ a.toNat ≤ 0xF3 ∨ 0xFA ≤ a.toNat
    keepsNothing 0x1E ∧ keepsNothing 0x27 ∧ keepsNothing 0x2E ∧ keepsNothing 0xF3 ∧ keepsNothing 0xFA ∧
      keepsNothing 0xFF ∧ ¬keepsNothing 0x1D ∧ ¬keepsNothing 0x28 ∧ ¬keepsNothing 0x2D ∧ ¬keepsNothing 0xF8 := by
  decide +kernel

theorem witness_RetiResult :
    (priv.canRead (priv.regs.get (spOf priv)) ∧ priv.canRead (priv.regs.get (spOf priv) + 2) ∧ priv.flag.p = true) ∧
      (user.canRead (user.regs.get (spOf user)) ∧ user.canRead (user.regs.get (spOf user) + 2) ∧
        user.flag.p = false) ∧
      isOdd ((at_sp priv 0xE001).regs.get (spOf priv)) = true ∧
      (let s := at_sp user 0x8FFE
      isOdd (s.regs.get (spOf s)) = false ∧ s.canRead (s.regs.get (spOf s)) ∧
        ¬s.allows .read (s.regs.get (spOf s) + 2) 2) ∧
      (let s := at_sp user 0x00FE
      isOdd (s.regs.get (spOf s)) = false ∧ ¬s.allows .read (s.regs.get (spOf s)) 2) := by
  simp only [State.canRead, State.allows]; decide +kernel

theorem witness_InterruptEnableAndHalt : priv.flag.p = true := by decide +kernel

theorem witness_SupervisorCallTraps : (user.Inv ∧ user.canTrap) ∧ priv.Inv ∧ priv.canTrap := by
  simp only [State.Inv, State.canTrap]; decide +kernel

theorem witness_PrivilegedInUserModeTraps : user.flag.p = false := by decide +kernel

/-- A next state by the instruction's own effect, for each clause; and one by a trap. -/
theorem witness_RegisterInstructionFrame :
    ([.ld .g0 (.mem (.direct 0x2000)), .ldFlag .g0, .add .g0 (.imm4 1), .sub .g0 (.imm4 1), .and .g0 (.imm4 1),
      .or .g0 (.imm4 1), .xor .g0 (.imm4 1), .adds .g0 (.imm4 1), .mul .g0 (.imm4 1), .div .g0 (.imm4 1),
      .mod .g0 (.imm4 1), .shla .g0 (.imm4 1), .shll .g0 (.imm4 1), .shra .g0 (.imm4 1), .shrl .g0 (.imm4 1),
      .mull .g2 (.imm4 1), .divl .g2 (.imm4 1), .cmp .g0 (.imm4 1), .ld .g0 (.mem (.direct 0x2001))] : List Instr).all
      (fun i => isNext (exec i priv)) = true := by decide +kernel

theorem witness_ControlInstructionFrame :
    ([.no, .jz (.direct 4), .jc (.direct 4), .jm (.direct 4), .jo (.direct 4), .jgt (.direct 4), .jge (.direct 4),
      .jle (.direct 4), .jlt (.direct 4), .jnz (.direct 4), .jnc (.direct 4), .jnm (.direct 4), .jno (.direct 4),
      .jhi (.direct 4), .jls (.direct 4), .jmp (.indirect .g2), .ret, .reti, .ei, .di, .halt, .svc] : List Instr).all
      (fun i => isNext (exec i priv)) = true ∧
      ([.ret, .reti, .ei, .svc] : List Instr).all (fun i => isNext (exec i user)) = true := by decide +kernel

theorem witness_StoreAndStackFrame :
    ([.st .g0 (.direct 0x2000), .st .g0 (.byteIndirect .g1), .push .g0, .call (.direct 0x0300), .pop .g0] : List Instr).all
      (fun i => isNext (exec i priv) && isNext (exec i user)) = true ∧ locAddr priv (.byteIndirect .g1) = .ok 0x2001 := by
  decide +kernel

theorem witness_InputOutputFrame :
    ([.inp .g0 (.direct 8), .out .g0 (.direct 0xF4)] : List Instr).all
      (fun i => isNext (exec i priv) && isNext (exec i user)) = true := by decide +kernel

theorem witness_StepKeepsCanonicalMemory : user.Inv ∧ ∃ t, step user = .next t :=
  ⟨by simp only [State.Inv]; decide +kernel, exists_next (by decide +kernel)⟩

/-- The ends of the ROM. -/
theorem witness_StepKeepsRom : romByte 0xF000 ∧ romByte 0xFFDF ∧ ∃ t, step priv = .next t :=
  ⟨by simp only [romByte]; decide, by simp only [romByte]; decide, exists_next (by decide +kernel)⟩

/-- Under the default rule user mode reaches no byte above the upper limit. -/
theorem not_reaches_of_gt {s : State} {k : AccessKind} {n : Nat} (hp : s.flag.p = false)
    (hr : s.protectRule = .closedRange) (hn : s.limitHi.toNat < n) : ¬s.reaches k n := by
  rintro ⟨a, ⟨h, e⟩ | ⟨-, h, e⟩⟩ <;>
    simp only [State.allows, limitViolation_closedRange hp hr, outsideRange, Bool.or_eq_false_iff,
      decide_eq_false_iff_not] at h
  · omega
  · have ha : (a + 1).toNat ≤ a.toNat + 1 := by rw [BitVec.toNat_add]; exact Nat.mod_le _ _
    rcases e with e | e <;> omega

/-- A PUSH in user mode: a step that is neither a trap nor an interrupt. -/
theorem witness_UserStepIsConfined :
    user.flag.p = false ∧ ¬user.reaches .write 0x9000 ∧ ∃ t, step (user.withFetchWord 16 0xC010) = .next t :=
  ⟨by decide +kernel, not_reaches_of_gt rfl rfl (by decide), exists_next (by decide +kernel)⟩

/-- Two states with different SSP and different memory outside the limits, and a step that stays in user mode. -/
theorem witness_UserStepLearnsNothing :
    let s := user.withFetchWord 16 0xC010
    let s' : State := { s with regs := s.regs.set .ssp 0xD000, mem := storeWord s.mem 0x9000 0x5678 }
    s.Inv ∧ s'.Inv ∧ s.flag.p = false ∧ s'.regs.ssp ≠ s.regs.ssp ∧ s'.mem.read 0x9000 ≠ s.mem.read 0x9000 ∧
      s.sameForUser s' ∧ ∃ t, step s = .next t ∧ t.flag.p = false := by
  refine ⟨by simp only [State.Inv]; decide +kernel, by simp only [State.Inv]; decide +kernel, by decide +kernel,
    by decide +kernel, by decide +kernel, ⟨?_, rfl, rfl, ⟨rfl, rfl, rfl⟩, ⟨rfl, rfl, rfl⟩, rfl, rfl, rfl, ?_⟩, _, rfl, rfl⟩
  · intro p hp
    cases p <;> first | rfl | exact absurd (List.mem_singleton.2 rfl) hp
  · intro n hn
    have h : n ≤ 0x8FFF := by
      refine Nat.le_of_not_lt fun hlt => ?_
      rcases hn with h | h <;> exact not_reaches_of_gt rfl rfl hlt h
    exact read_storeWord_of_ne _ 0x9000 0x5678 (by simp; omega) (by simp; omega)

/-- An SVC enters privileged mode, a RETI that pops FLAG = 0 leaves it. -/
theorem witness_ModeChanges :
    (user.flag.p = false ∧ run user 0xF000 (·.flag.p) = some true) ∧
      priv.flag.p = true ∧ run priv 0xD400 (·.flag.p) = some false := by decide +kernel

theorem witness_HistoryOnlyGrows :
    (∃ t, step (priv.withFetchWord 32 0x0002B800) = .next t) ∧ user.flag.p = false ∧ ∃ t, step user = .next t :=
  ⟨exists_next (by decide +kernel), by decide +kernel, exists_next (by decide +kernel)⟩

end Sys2Proof.Tests
end

section
/-!
PROOF. FLAG as a word (10_state.md R26). The word is written out once as its bits appended one by one; its value as a
number and the six bits read back from it follow by the library's lemmas about one appended bit.
-/

namespace Sys2Proof.Machine

theorem append_zero_two_eq_concat {n : Nat} (x : BitVec n) :
    x ++ (0 : BitVec 2) = (x.concat false).concat false := by
  simp only [BitVec.concat, BitVec.append_assoc]
  rfl

/-- FLAG's word bit by bit from the top, `0000 0000 EP00 VCSZ` (10_state.md R26). -/
theorem Flag.toWord_eq_concat (f : Flag) : f.toWord =
    ((((((((0 : BitVec 8).concat f.e).concat f.p).concat false).concat false).concat f.v).concat f.c).concat
      f.s).concat f.z := by
  rw [Flag.toWord, append_zero_two_eq_concat]
  rfl

/-- The values of the six bits in 10_state.md R26; the ten reserved bits add nothing. -/
theorem Flag.toNat_toWord (f : Flag) : f.toWord.toNat =
    0x80 * f.e.toNat + 0x40 * f.p.toNat + 0x08 * f.v.toNat + 0x04 * f.c.toNat + 0x02 * f.s.toNat + f.z.toNat := by
  simp only [Flag.toWord_eq_concat, BitVec.toNat_concat, BitVec.toNat_zero, BitVec.ofNat_eq_ofNat, Bool.toNat_false]
  omega

/-- Each flag is read back from the place 10_state.md R26 gives it. -/
@[simp] theorem flagOfWord_toWord (f : Flag) : flagOfWord f.toWord = f := by
  simp only [flagOfWord, Flag.toWord_eq_concat, BitVec.getLsbD_concat_zero, BitVec.getLsbD_concat_succ]

end Sys2Proof.Machine

namespace Sys2Proof

/-- Settles O22: the value of FLAG's word, and the same six bits when it is loaded back. -/
theorem flagWordLayout : Obligations.FlagWordLayout := fun f =>
  ⟨Machine.Flag.toNat_toWord f, Machine.flagOfWord_toWord f⟩

end Sys2Proof
end

section
/-!
PROOF. MemRead and MemWrite (20_memory.md R53, R54). An access is its check followed by the bytes: when each check raises
is said once, as is when each access raises or is refused, next to the lemmas that say when it succeeds. The bytes come
from the laws of memory.
-/

namespace Sys2Proof.Machine

/-! ## When an access raises or is refused -/

/-- A word access raises InvalidAddress at an odd address, and only at an even one AddressLimitViolation
(20_memory.md R53, R54). -/
theorem checkWord_eq_raise {s : State} {k : AccessKind} {a : Word} {e : Exc} :
    checkWord s k a = .raise e ↔
      (isOdd a = true ∧ e = .invalidAddress) ∨
        (isOdd a = false ∧ limitViolation s k a 2 = true ∧ e = .addressLimitViolation) := by
  unfold checkWord
  split
  · next ho => simp [ho, eq_comm (b := e)]
  · next ho =>
    split
    · next hv => simp [ho, hv, eq_comm (b := e)]
    · next hv => simp [ho, hv]

/-- A byte access meets the limits only, at an odd address too (20_memory.md R53 to R55). -/
theorem checkByte_eq_raise {s : State} {k : AccessKind} {a : Word} {e : Exc} :
    checkByte s k a = .raise e ↔ limitViolation s k a 1 = true ∧ e = .addressLimitViolation := by
  unfold checkByte
  split
  · next hv => simp [hv, eq_comm (b := e)]
  · next hv => simp [hv]

theorem checkWord_ne_refuse (s : State) (k : AccessKind) (a : Word) (r : Refusal) : checkWord s k a ≠ .refuse r := by
  unfold checkWord
  split
  · simp
  · split <;> simp

theorem checkByte_ne_refuse (s : State) (k : AccessKind) (a : Word) (r : Refusal) : checkByte s k a ≠ .refuse r := by
  unfold checkByte
  split <;> simp

/-- A word read raises what its check raises. -/
theorem readWord_eq_raise {s : State} {k : AccessKind} {a : Word} {e : Exc} :
    readWord s k a = .raise e ↔ checkWord s k a = .raise e := by
  simp [readWord, Eff.bind_eq_raise]

/-- A byte read raises what its check raises. -/
theorem readByte_eq_raise {s : State} {k : AccessKind} {a : Word} {e : Exc} :
    readByte s k a = .raise e ↔ checkByte s k a = .raise e := by
  simp [readByte, Eff.bind_eq_raise]

/-- The refusal of the ROM adds no exception to a word write's check. -/
theorem writeWord_eq_raise {s : State} {a x : Word} {e : Exc} :
    writeWord s a x = .raise e ↔ checkWord s .write a = .raise e := by
  cases h : inRom a <;> simp [writeWord, Eff.bind_eq_raise, h]

/-- The refusal of the ROM adds no exception to a byte write's check. -/
theorem writeByte_eq_raise {s : State} {a : Word} {x : Byte} {e : Exc} :
    writeByte s a x = .raise e ↔ checkByte s .write a = .raise e := by
  cases h : inRom a <;> simp [writeByte, Eff.bind_eq_raise, h]

/-- A word write is refused in the ROM only, after its check (20_memory.md R54). -/
theorem writeWord_eq_refuse {s : State} {a x : Word} {r : Refusal} :
    writeWord s a x = .refuse r ↔
      isOdd a = false ∧ limitViolation s .write a 2 = false ∧ inRom a = true ∧ r = .romWrite := by
  cases h : inRom a <;>
    simp [writeWord, Eff.bind_eq_refuse, checkWord_ne_refuse, checkWord_eq_ok, h, and_assoc, eq_comm (b := r)]

/-- A byte write is refused in the ROM only, after its check (20_memory.md R54). -/
theorem writeByte_eq_refuse {s : State} {a : Word} {x : Byte} {r : Refusal} :
    writeByte s a x = .refuse r ↔ limitViolation s .write a 1 = false ∧ inRom a = true ∧ r = .romWrite := by
  cases h : inRom a <;>
    simp [writeByte, Eff.bind_eq_refuse, checkByte_ne_refuse, checkByte_eq_ok, h, eq_comm (b := r)]

/-! ## The ROM, and the value of a word -/

theorem inRom_eq_true_iff {a : Word} : inRom a = true ↔ romByte a.toNat := by
  simp [inRom, romByte]

theorem inRom_eq_false_iff {a : Word} : inRom a = false ↔ ¬romByte a.toNat := by
  rw [← inRom_eq_true_iff, Bool.not_eq_true]

/-- The even byte is bits 15..8, the odd byte bits 7..0 (20_memory.md R51). -/
theorem toNat_joinBytes (h l : Byte) : (joinBytes h l).toNat = 256 * h.toNat + l.toNat := by
  rw [joinBytes, BitVec.toNat_append, ← Nat.shiftLeft_add_eq_or_of_lt l.isLt, Nat.shiftLeft_eq]
  omega

/-- A word is loaded big-endian (20_memory.md R53). -/
theorem toNat_loadWord (m : Memory) (a : Word) :
    (loadWord m a).toNat = 256 * (m.read a.toNat).toNat + (m.read (a + 1).toNat).toNat :=
  toNat_joinBytes _ _

end Sys2Proof.Machine

namespace Sys2Proof

open Sys2Proof.Machine

/-- Settles O16: the checks of a read in their order, then the bytes it delivers. -/
theorem memoryReadRule : Obligations.MemoryReadRule := by
  intro s k a
  refine ⟨?odd, ?limit, ?value, ?byteLimit, ?byteValue⟩
  case odd => exact fun ho => readWord_eq_raise.2 (checkWord_eq_raise.2 (.inl ⟨ho, rfl⟩))
  case limit => exact fun he hv => readWord_eq_raise.2 (checkWord_eq_raise.2 (.inr ⟨he, hv, rfl⟩))
  case value => exact fun he hv => ⟨_, readWord_eq_ok.2 ⟨he, hv, rfl⟩, toNat_loadWord s.mem a⟩
  case byteLimit => exact fun hv => readByte_eq_raise.2 (checkByte_eq_raise.2 ⟨hv, rfl⟩)
  case byteValue => exact fun hv => readByte_eq_ok.2 ⟨hv, rfl⟩

/-- Settles O17: the checks of a write in their order, the refusal of the ROM, then the bytes written and no others. Only
the bytes written need a canonical memory. -/
theorem memoryWriteRule : Obligations.MemoryWriteRule := by
  intro s a x b hinv
  have hwf : s.mem.wf = true := hinv
  refine ⟨?odd, ?limit, ?rom, ?stored, ?byteLimit, ?byteRom, ?byteStored⟩
  case odd => exact fun ho => writeWord_eq_raise.2 (checkWord_eq_raise.2 (.inl ⟨ho, rfl⟩))
  case limit => exact fun he hv => writeWord_eq_raise.2 (checkWord_eq_raise.2 (.inr ⟨he, hv, rfl⟩))
  case rom => exact fun he hv hr => writeWord_eq_refuse.2 ⟨he, hv, inRom_eq_true_iff.2 hr, rfl⟩
  case stored =>
    intro he hv hr
    refine ⟨storeWord s.mem a x, writeWord_eq_ok.2 ⟨he, hv, inRom_eq_false_iff.2 hr, rfl⟩,
      read_storeWord_hi a x hwf, read_storeWord_lo a x hwf, fun n hn => ?_⟩
    obtain ⟨hne, hne'⟩ := not_or.1 hn
    exact read_storeWord_of_ne s.mem a x hne hne'
  case byteLimit => exact fun hv => writeByte_eq_raise.2 (checkByte_eq_raise.2 ⟨hv, rfl⟩)
  case byteRom => exact fun hv hr => writeByte_eq_refuse.2 ⟨hv, inRom_eq_true_iff.2 hr, rfl⟩
  case byteStored =>
    intro hv hr
    exact ⟨s.mem.write a.toNat b, writeByte_eq_ok.2 ⟨hv, inRom_eq_false_iff.2 hr, rfl⟩,
      Memory.read_write_same a.toNat b hwf, fun n hn => Memory.read_write_of_ne s.mem b hn⟩

end Sys2Proof
end

section
/-!
PROOF. NO, LD, LD Rd,FLAG and ST (40_no_ld_st.md). What each instruction comes to is one equation per outcome of its
operand access; what the state it leaves keeps is said once for a written register and once for a written memory.
-/

namespace Sys2Proof.Machine

/-! ## What a written register and a written memory leave unchanged -/

theorem State.keepsFlag_goto (s : State) (a : Word) : s.keepsFlag (s.goto a) [] :=
  ⟨⟨fun _ _ => rfl, fun _ => rfl, ⟨rfl, rfl⟩, ⟨⟨rfl, rfl, rfl⟩, rfl, rfl⟩, rfl, rfl, rfl⟩, rfl, rfl, rfl, rfl⟩

theorem State.sameRegsBut_setReg (s : State) (d : Phys) (x : Word) : s.sameRegsBut (s.setReg d x) [d] :=
  fun p hp => Regs.get_set_of_ne s.regs d p x (mt List.mem_singleton.2 hp)

/-- Besides the register and PC everything in the state is what it was; no flag is touched (10_state.md R29). -/
theorem State.keepsFlag_setReg_goto (s : State) (d : Phys) (x a : Word) :
    s.keepsFlag ((s.setReg d x).goto a) [d] := by
  obtain ⟨⟨-, hmem, hsys⟩, harith⟩ := s.keepsFlag_goto a
  exact ⟨⟨s.sameRegsBut_setReg d x, hmem, hsys⟩, harith⟩

/-- A replaced memory is no change of a register, a flag, a limit, a device or a request. -/
theorem State.setMem_goto_keeps (s : State) (m : Memory) (a : Word) :
    s.sameRegsBut ((s.setMem m).goto a) [] ∧ s.sameArith ((s.setMem m).goto a) ∧
      s.sameSystem ((s.setMem m).goto a) := by
  obtain ⟨⟨hregs, -, hsys⟩, harith⟩ := s.keepsFlag_goto a
  exact ⟨hregs, harith, hsys⟩

theorem State.not_allows_iff {s : State} {k : AccessKind} {a : Word} {n : Nat} :
    ¬s.allows k a n ↔ limitViolation s k a n = true := by
  rw [State.allows, Bool.not_eq_false]

/-- The bytes of a word store are those `inWord` names. -/
theorem read_storeWord_of_not_inWord (m : Memory) {a : Word} (x : Word) {n : Nat} (h : ¬inWord a n) :
    (storeWord m a x).read n = m.read n := by
  obtain ⟨hhi, hlo⟩ := not_or.1 h
  exact read_storeWord_of_ne m a x hhi hlo

/-! ## The instructions -/

/-- NO (40_no_ld_st.md R120). -/
theorem exec_no (s : State) : exec .no s = .next (s.goto (npc s 0)) := rfl

/-! The arms of `exec` for the other moves: rewriting with one of them does not unfold the whole dispatch. -/

theorem exec_ldFlag_eq (rd : Reg) (s : State) : exec (.ldFlag rd) s = execLdFlag rd s := rfl

theorem exec_ld_eq (rd : Reg) (m : Src) (s : State) : exec (.ld rd m) s = execLd rd m s := rfl

theorem exec_st_eq (rd : Reg) (m : Loc) (s : State) : exec (.st rd m) s = execSt rd m s := rfl

section

variable {s : State} {rd : Reg} {d : Phys} (hd : resolve s rd = .ok d)

include hd

theorem readReg_of_resolve : readReg s rd = .ok (s.regs.get d) := by
  rw [readReg, hd, Eff.bind_ok]

/-- LD Rd,FLAG (40_no_ld_st.md R122). -/
theorem exec_ldFlag : exec (.ldFlag rd) s = .next ((s.setReg d s.flag.toWord).goto (npc s 0)) := by
  rw [exec_ldFlag_eq, execLdFlag, hd, Eff.bind_ok, settle_ok]

/-- LD whose operand can be read (40_no_ld_st.md R121). -/
theorem exec_ld_of_operand_ok {m : Src} {v : Word} (hv : operand s m = .ok v) :
    exec (.ld rd m) s = .next ((s.setReg d v).goto (npc s m.extraWords)) := by
  rw [exec_ld_eq, execLd, hd, Eff.bind_ok, hv, Eff.bind_ok, settle_ok]

/-- LD whose operand raises (40_no_ld_st.md R121). -/
theorem exec_ld_of_operand_raise {m : Src} {e : Exc} (he : operand s m = .raise e) :
    exec (.ld rd m) s = raiseExc s e := by
  rw [exec_ld_eq, execLd, hd, Eff.bind_ok, he, Eff.bind_raise, settle_raise]

/-- ST whose store is made (40_no_ld_st.md R123). -/
theorem exec_st_of_writeLoc_ok {m : Loc} {mem : Memory} (hw : writeLoc s m (s.regs.get d) = .ok mem) :
    exec (.st rd m) s = .next ((s.setMem mem).goto (npc s m.extraWords)) := by
  rw [exec_st_eq, execSt, readReg_of_resolve hd, Eff.bind_ok, hw, Eff.bind_ok, settle_ok]

/-- ST whose store raises (40_no_ld_st.md R123). -/
theorem exec_st_of_writeLoc_raise {m : Loc} {e : Exc} (hw : writeLoc s m (s.regs.get d) = .raise e) :
    exec (.st rd m) s = raiseExc s e := by
  rw [exec_st_eq, execSt, readReg_of_resolve hd, Eff.bind_ok, hw, Eff.bind_raise, settle_raise]

/-- ST whose store is refused (40_no_ld_st.md R123). -/
theorem exec_st_of_writeLoc_refuse {m : Loc} {r : Refusal} (hw : writeLoc s m (s.regs.get d) = .refuse r) :
    exec (.st rd m) s = .refused r := by
  rw [exec_st_eq, execSt, readReg_of_resolve hd, Eff.bind_ok, hw, Eff.bind_refuse, settle_refuse]

end

/-! ## A store at a location -/

/-- Modes 0, 1, 3 and 6 store the word (40_no_ld_st.md R123). -/
theorem writeLoc_of_word {s : State} {m : Loc} {a : Word} (ha : locAddr s m = .ok a) (hm : Loc.width m = .word)
    (x : Word) : writeLoc s m x = writeWord s a x := by
  rw [writeLoc, ha, Eff.bind_ok, hm]

/-- Mode 7 stores the low byte (40_no_ld_st.md R123). -/
theorem writeLoc_of_byte {s : State} {m : Loc} {a : Word} (ha : locAddr s m = .ok a) (hm : Loc.width m = .byte)
    (x : Word) : writeLoc s m x = writeByte s a (loByte x) := by
  rw [writeLoc, ha, Eff.bind_ok, hm]

end Sys2Proof.Machine

namespace Sys2Proof

open Sys2Proof.Machine

/-- Settles O24: each move is its equation, and the state in it keeps all but the register and PC. -/
theorem moveResults : Obligations.MoveResults := by
  intro s
  refine ⟨⟨_, exec_no s, rfl, s.keepsFlag_goto _⟩, fun rd d hd => ⟨?flag, fun m => ⟨fun v hv => ?value, ?raise⟩⟩⟩
  case flag => exact ⟨_, exec_ldFlag hd, Regs.get_set_same .., rfl, s.keepsFlag_setReg_goto ..⟩
  case value => exact ⟨_, exec_ld_of_operand_ok hd hv, Regs.get_set_same .., rfl, s.keepsFlag_setReg_goto ..⟩
  case raise => exact fun e he => exec_ld_of_operand_raise hd he

/-- Settles O25: ST comes to what its store comes to, which the rules of a word write and of a byte write say. Only the
stored value needs a canonical memory. -/
theorem storeResult : Obligations.StoreResult := by
  intro s rd m d a hinv hd ha kept
  have hwf : s.mem.wf = true := hinv
  have kept_of_frame {mem : Memory} (hmem : ∀ n, ¬inStore a (Loc.width m) n → mem.read n = s.mem.read n) :
      kept ((s.setMem mem).goto (npc s m.extraWords)) := by
    obtain ⟨hregs, harith, hsys⟩ := s.setMem_goto_keeps mem (npc s m.extraWords)
    exact ⟨hregs, harith, hsys, rfl, hmem⟩
  refine ⟨fun hm => ?word, fun hm => ?byte⟩
  case word =>
    have hw := writeLoc_of_word ha hm (s.regs.get d)
    refine ⟨?stored, ?odd, ?limit, ?rom⟩
    case stored =>
      rintro ⟨he, hv, hr⟩
      refine ⟨_, exec_st_of_writeLoc_ok hd (hw.trans (writeWord_eq_ok.2 ⟨he, hv, hr, rfl⟩)),
        loadWord_storeWord_same a _ hwf, kept_of_frame fun n hn => ?_⟩
      rw [hm] at hn
      exact read_storeWord_of_not_inWord s.mem _ hn
    case odd =>
      exact fun ho => exec_st_of_writeLoc_raise hd
        (hw.trans (writeWord_eq_raise.2 (checkWord_eq_raise.2 (.inl ⟨ho, rfl⟩))))
    case limit =>
      exact fun he hv => exec_st_of_writeLoc_raise hd
        (hw.trans (writeWord_eq_raise.2 (checkWord_eq_raise.2 (.inr ⟨he, State.not_allows_iff.1 hv, rfl⟩))))
    case rom =>
      exact fun he hv hr => exec_st_of_writeLoc_refuse hd (hw.trans (writeWord_eq_refuse.2 ⟨he, hv, hr, rfl⟩))
  case byte =>
    have hw := writeLoc_of_byte ha hm (s.regs.get d)
    refine ⟨?byteStored, ?byteLimit, ?byteRom⟩
    case byteStored =>
      rintro ⟨hv, hr⟩
      refine ⟨_, exec_st_of_writeLoc_ok hd (hw.trans (writeByte_eq_ok.2 ⟨hv, hr, rfl⟩)),
        Memory.read_write_same a.toNat _ hwf, kept_of_frame fun n hn => ?_⟩
      rw [hm] at hn
      exact Memory.read_write_of_ne s.mem _ hn
    case byteLimit =>
      exact fun hv => exec_st_of_writeLoc_raise hd
        (hw.trans (writeByte_eq_raise.2 (checkByte_eq_raise.2 ⟨State.not_allows_iff.1 hv, rfl⟩)))
    case byteRom =>
      exact fun hv hr => exec_st_of_writeLoc_refuse hd (hw.trans (writeByte_eq_refuse.2 ⟨hv, hr, rfl⟩))

end Sys2Proof
end

section
/-!
PROOF. CMP and the jumps after it (41_arith_logic.md R132, R133, 44_jump_call.md R160 to R174). The flags of a
subtraction say how its operands compare: Z equality, C the unsigned order, S xor V the signed one. Each jump condition is
read off these three, and a jump goes where its condition says.
-/

namespace Sys2Proof.Machine

/-! ## The flags of a subtraction -/

theorem subFlags_c_iff (a b : Word) : (subFlags a b).c = true ↔ a.toNat < b.toNat := decide_eq_true_iff

theorem subFlags_v_iff (a b : Word) :
    (subFlags a b).v = true ↔ a.msb ≠ b.msb ∧ (a - b).msb ≠ a.msb := by
  rw [subFlags, Bool.and_eq_true, bne_iff_ne, bne_iff_ne]

theorem subFlags_s_iff (a b : Word) : (subFlags a b).s = true ↔ (a - b).msb = true := Iff.rfl

theorem subFlags_z_iff (a b : Word) : (subFlags a b).z = true ↔ a - b = 0 := beq_iff_eq

/-- Operands of one sign have a difference in range, so V is clear and S is the sign of the exact difference. For operands
of different signs V is set exactly when S is not the sign of `a`, and the negative operand is the lesser
(41_arith_logic.md R132). -/
theorem subFlags_s_xor_v_iff (a b : Word) :
    ((subFlags a b).s ^^ (subFlags a b).v) = true ↔ a.toInt < b.toInt := by
  by_cases hab : a.msb = b.msb
  case pos =>
    have hv : (subFlags a b).v = false := by simp [subFlags, hab]
    have hsub : (a - b).toInt = a.toInt - b.toInt :=
      BitVec.toInt_sub_of_not_ssubOverflow (by simp [BitVec.ssubOverflow_eq, hab])
    rw [hv, Bool.xor_false, subFlags_s_iff, BitVec.msb_eq_toInt, hsub, decide_eq_true_iff, sub_neg]
  case neg =>
    have hsv : ((subFlags a b).s ^^ (subFlags a b).v) = a.msb := by
      rw [subFlags, signOf, bne_iff_ne.2 hab, Bool.true_and]
      exact Bool.bne_self_left _ _
    rw [BitVec.msb_eq_toInt, BitVec.msb_eq_toInt, decide_eq_decide] at hab
    rw [hsv, BitVec.msb_eq_toInt, decide_eq_true_iff]
    omega

/-! ## The conditions after a comparison -/

/-- What the jump conditions see of the flags after `a` is compared with `b` (41_arith_logic.md R133). -/
structure Flag.Compares (f : Flag) (a b : Word) : Prop where
  z_iff : f.z = true ↔ a = b
  c_iff : f.c = true ↔ a.toNat < b.toNat
  lt_iff : condLt f = true ↔ a.toInt < b.toInt

/-- The flags a CMP writes compare its operands. -/
theorem setArith_subFlags_compares (s : State) (a b : Word) : (s.setArith (subFlags a b)).flag.Compares a b where
  z_iff := (subFlags_z_iff a b).trans sub_eq_zero
  c_iff := subFlags_c_iff a b
  lt_iff := subFlags_s_xor_v_iff a b

theorem not_eq_true_iff_of_iff {x : Bool} {r q : Prop} (h : x = true ↔ r) (hq : ¬r ↔ q) : (!x) = true ↔ q := by
  rw [Bool.not_eq_true', ← Bool.not_eq_true, h, hq]

namespace Flag.Compares

variable {f : Flag} {a b : Word} (h : f.Compares a b)

include h

theorem condNz_iff : condNz f = true ↔ a ≠ b := not_eq_true_iff_of_iff h.z_iff Iff.rfl

theorem condNc_iff : condNc f = true ↔ b.toNat ≤ a.toNat := not_eq_true_iff_of_iff h.c_iff not_lt

theorem condGe_iff : condGe f = true ↔ b.toInt ≤ a.toInt := not_eq_true_iff_of_iff h.lt_iff not_lt

theorem condLe_iff : condLe f = true ↔ a.toInt ≤ b.toInt := by
  have hle : condLe f = (f.z || condLt f) := rfl
  rw [hle, Bool.or_eq_true, h.z_iff, h.lt_iff, ← BitVec.toInt_inj, le_iff_eq_or_lt]

theorem condGt_iff : condGt f = true ↔ b.toInt < a.toInt := not_eq_true_iff_of_iff h.condLe_iff not_le

theorem condLs_iff : condLs f = true ↔ a.toNat ≤ b.toNat := by
  rw [condLs, Bool.or_eq_true, h.z_iff, h.c_iff, ← BitVec.toNat_inj, le_iff_eq_or_lt]

theorem condHi_iff : condHi f = true ↔ b.toNat < a.toNat := not_eq_true_iff_of_iff h.condLs_iff not_le

end Flag.Compares

/-! ## The instructions -/

theorem exec_cmp_eq (rd : Reg) (m : Src) (s : State) : exec (.cmp rd m) s = execCmp rd m s := rfl

theorem operands_of_resolve_of_operand {s : State} {rd : Reg} {m : Src} {d : Phys} {b : Word}
    (hd : resolve s rd = .ok d) (hb : operand s m = .ok b) :
    operands s rd m = .ok { dst := d, a := s.regs.get d, b := b } :=
  operands_eq_ok.2 ⟨hd, hb, rfl⟩

/-- CMP whose operand can be read (41_arith_logic.md R133). -/
theorem exec_cmp_of_operand_ok {s : State} {rd : Reg} {m : Src} {d : Phys} {b : Word}
    (hd : resolve s rd = .ok d) (hb : operand s m = .ok b) :
    exec (.cmp rd m) s = .next ((s.setArith (subFlags (s.regs.get d) b)).goto (npc s m.extraWords)) := by
  rw [exec_cmp_eq, execCmp, operands_of_resolve_of_operand hd hb, Eff.bind_ok, settle_ok]

/-- Written flags V, C, S and Z are no change of anything else, E and P included (10_state.md R29). -/
theorem State.changesOnly_setArith_goto (s : State) (f : Arith) (a : Word) :
    s.changesOnly ((s.setArith f).goto a) [] :=
  (s.keepsFlag_goto a).1

/-! The arms of `exec` for the jumps of the comparison table. -/

theorem exec_jz_eq (j : Target) (s : State) : exec (.jz j) s = jumpWhen (condZ s.flag) j s := rfl

theorem exec_jnz_eq (j : Target) (s : State) : exec (.jnz j) s = jumpWhen (condNz s.flag) j s := rfl

theorem exec_jc_eq (j : Target) (s : State) : exec (.jc j) s = jumpWhen (condC s.flag) j s := rfl

theorem exec_jnc_eq (j : Target) (s : State) : exec (.jnc j) s = jumpWhen (condNc s.flag) j s := rfl

theorem exec_jgt_eq (j : Target) (s : State) : exec (.jgt j) s = jumpWhen (condGt s.flag) j s := rfl

theorem exec_jge_eq (j : Target) (s : State) : exec (.jge j) s = jumpWhen (condGe s.flag) j s := rfl

theorem exec_jle_eq (j : Target) (s : State) : exec (.jle j) s = jumpWhen (condLe s.flag) j s := rfl

theorem exec_jlt_eq (j : Target) (s : State) : exec (.jlt j) s = jumpWhen (condLt s.flag) j s := rfl

theorem exec_jhi_eq (j : Target) (s : State) : exec (.jhi j) s = jumpWhen (condHi s.flag) j s := rfl

theorem exec_jls_eq (j : Target) (s : State) : exec (.jls j) s = jumpWhen (condLs s.flag) j s := rfl

/-- A jump whose target has an address (44_jump_call.md R160). -/
theorem jumpWhen_of_targetAddr {s : State} {j : Target} {e : Word} (he : targetAddr s j = .ok e) (taken : Bool) :
    jumpWhen taken j s = .next (s.goto (if taken then e else npc s j.extraWords)) := by
  rw [jumpWhen, he, Eff.bind_ok, settle_ok]

/-- A jump whose condition says `r` goes to its target when `r` holds and to the next instruction when it does not. -/
theorem goes_of_cond_iff {s : State} {j : Target} {e : Word} {i : Instr} {taken : Bool} {r : Prop}
    (he : targetAddr s j = .ok e) (hi : exec i s = jumpWhen taken j s) (hr : taken = true ↔ r) :
    (r → exec i s = .next (s.goto e)) ∧ (¬r → exec i s = .next (s.goto (npc s j.extraWords))) := by
  rw [hi, jumpWhen_of_targetAddr he, ← hr]
  exact ⟨fun h => by rw [if_pos h], fun h => by rw [if_neg h]⟩

end Sys2Proof.Machine

namespace Sys2Proof

open Sys2Proof.Machine

/-- Settles O27: CMP is its equation, its flags compare the operands, and each jump's condition is read off them. -/
theorem compareThenJump : Obligations.CompareThenJump := by
  intro s rd m d b hd hb a
  refine ⟨_, exec_cmp_of_operand_ok hd hb, rfl, s.changesOnly_setArith_goto .., subFlags_c_iff a b,
    subFlags_v_iff a b, subFlags_s_iff a b, subFlags_z_iff a b, ?jumps⟩
  case jumps =>
    intro j e he goes
    have h := setArith_subFlags_compares s a b
    exact ⟨goes_of_cond_iff he (exec_jgt_eq j _) h.condGt_iff, goes_of_cond_iff he (exec_jge_eq j _) h.condGe_iff,
      goes_of_cond_iff he (exec_jle_eq j _) h.condLe_iff, goes_of_cond_iff he (exec_jlt_eq j _) h.lt_iff,
      goes_of_cond_iff he (exec_jhi_eq j _) h.condHi_iff, goes_of_cond_iff he (exec_jnc_eq j _) h.condNc_iff,
      goes_of_cond_iff he (exec_jls_eq j _) h.condLs_iff, goes_of_cond_iff he (exec_jc_eq j _) h.c_iff,
      goes_of_cond_iff he (exec_jz_eq j _) h.z_iff, goes_of_cond_iff he (exec_jnz_eq j _) h.condNz_iff⟩

end Sys2Proof
end

section
/-!
PROOF. The fifteen jumps (44_jump_call.md R160 to R175). What the flags must be for each relation condition is said once;
a jump with an address for its target then goes where its condition says.
-/

namespace Sys2Proof.Machine

/-! ## The relation conditions in terms of the flags -/

theorem condLt_iff_s_ne_v (f : Flag) : condLt f = true ↔ f.s ≠ f.v := bne_iff_ne

theorem condGe_iff_s_eq_v (f : Flag) : condGe f = true ↔ f.s = f.v :=
  not_eq_true_iff_of_iff (condLt_iff_s_ne_v f) not_ne_iff

theorem condLe_iff_z_or_s_ne_v (f : Flag) : condLe f = true ↔ f.z = true ∨ f.s ≠ f.v := by
  have hle : condLe f = (f.z || condLt f) := rfl
  rw [hle, Bool.or_eq_true, condLt_iff_s_ne_v]

/-- JGT is taken exactly when JLE is not (44_jump_call.md R165, R167). -/
theorem condGt_iff_not_z_and_s_eq_v (f : Flag) : condGt f = true ↔ f.z = false ∧ f.s = f.v :=
  not_eq_true_iff_of_iff (condLe_iff_z_or_s_ne_v f) (by rw [not_or, Bool.not_eq_true, not_ne_iff])

theorem condLs_iff_z_or_c (f : Flag) : condLs f = true ↔ f.z = true ∨ f.c = true := Bool.or_eq_true_iff

/-- JHI is taken exactly when JLS is not (44_jump_call.md R173, R174). -/
theorem condHi_iff_not_z_and_not_c (f : Flag) : condHi f = true ↔ f.z = false ∧ f.c = false :=
  not_eq_true_iff_of_iff (condLs_iff_z_or_c f) (by rw [not_or, Bool.not_eq_true, Bool.not_eq_true])

/-! ## The arms of `exec` for the jumps outside the comparison table -/

theorem exec_jm_eq (j : Target) (s : State) : exec (.jm j) s = jumpWhen (condM s.flag) j s := rfl

theorem exec_jo_eq (j : Target) (s : State) : exec (.jo j) s = jumpWhen (condO s.flag) j s := rfl

theorem exec_jnm_eq (j : Target) (s : State) : exec (.jnm j) s = jumpWhen (condNm s.flag) j s := rfl

theorem exec_jno_eq (j : Target) (s : State) : exec (.jno j) s = jumpWhen (condNo s.flag) j s := rfl

theorem exec_jmp_eq (j : Target) (s : State) : exec (.jmp j) s = jumpWhen true j s := rfl

/-- A jump whose target has an address, as one equation for taken and not taken (44_jump_call.md R160). -/
theorem exec_jump_of_targetAddr {s : State} {j : Target} {e : Word} {i : Instr} {taken : Bool}
    (he : targetAddr s j = .ok e) (hi : exec i s = jumpWhen taken j s) :
    exec i s = .next (if taken then s.goto e else s.goto (npc s j.extraWords)) := by
  rw [hi, jumpWhen_of_targetAddr he, apply_ite s.goto]

end Sys2Proof.Machine

namespace Sys2Proof

open Sys2Proof.Machine

/-- Settles O36: each relation jump goes where its condition says, and the condition is the relation of the flags. -/
theorem jumpsOnRelations : Obligations.JumpsOnRelations := by
  intro s t a ha f jumps
  exact ⟨goes_of_cond_iff ha (exec_jgt_eq t s) (condGt_iff_not_z_and_s_eq_v f),
    goes_of_cond_iff ha (exec_jge_eq t s) (condGe_iff_s_eq_v f),
    goes_of_cond_iff ha (exec_jle_eq t s) (condLe_iff_z_or_s_ne_v f),
    goes_of_cond_iff ha (exec_jlt_eq t s) (condLt_iff_s_ne_v f),
    goes_of_cond_iff ha (exec_jhi_eq t s) (condHi_iff_not_z_and_not_c f),
    goes_of_cond_iff ha (exec_jls_eq t s) (condLs_iff_z_or_c f),
    goes_of_cond_iff ha (exec_jmp_eq t s) (iff_of_true rfl trivial)⟩

/-- Settles O35: the condition of each of the eight jumps is its flag or the complement of it. -/
theorem jumpsOnOneFlag : Obligations.JumpsOnOneFlag := by
  intro s t a ha jumps
  exact ⟨exec_jump_of_targetAddr ha (exec_jz_eq t s), exec_jump_of_targetAddr ha (exec_jc_eq t s),
    exec_jump_of_targetAddr ha (exec_jm_eq t s), exec_jump_of_targetAddr ha (exec_jo_eq t s),
    exec_jump_of_targetAddr ha (exec_jnz_eq t s), exec_jump_of_targetAddr ha (exec_jnc_eq t s),
    exec_jump_of_targetAddr ha (exec_jnm_eq t s), exec_jump_of_targetAddr ha (exec_jno_eq t s)⟩

end Sys2Proof
end

section
/-!
PROOF. POP and RET (45_io_stack.md R184, 46_system.md R191). Both take the word at SP by `pop()`: what that delivers and
what it raises is said once, each instruction is one equation per outcome of it.
-/

namespace Sys2Proof.Machine

/-! ## The word taken from the stack -/

/-- `pop()` of a word that can be read (20_memory.md R57). -/
theorem pop_of_canRead {s : State} (h : s.canRead (s.regs.get (spOf s))) :
    pop s = .ok (loadWord s.mem (s.regs.get (spOf s)), s.setReg (spOf s) (s.regs.get (spOf s) + 2)) := by
  obtain ⟨he, hv⟩ := h
  exact pop_eq_ok.2 ⟨readWord_eq_ok.2 ⟨he, hv, rfl⟩, rfl⟩

/-- `pop()` raises what the check of its read raises (20_memory.md R57). -/
theorem pop_eq_raise {s : State} {e : Exc} :
    pop s = .raise e ↔ checkWord s .read (s.regs.get (spOf s)) = .raise e := by
  simp [pop, Eff.bind_eq_raise, readWord_eq_raise]

/-- The exceptions of an instruction that raises what its `pop()` raises, in the order of a read's checks
(20_memory.md R53). -/
theorem faults_of_pop_raise {s : State} {i : Instr} (h : ∀ e, pop s = .raise e → exec i s = raiseExc s e) :
    (isOdd (s.regs.get (spOf s)) = true → exec i s = raiseExc s .invalidAddress) ∧
      (isOdd (s.regs.get (spOf s)) = false → ¬s.allows .read (s.regs.get (spOf s)) 2 →
        exec i s = raiseExc s .addressLimitViolation) :=
  ⟨fun ho => h _ (pop_eq_raise.2 (checkWord_eq_raise.2 (.inl ⟨ho, rfl⟩))),
    fun he hv => h _ (pop_eq_raise.2 (checkWord_eq_raise.2 (.inr ⟨he, State.not_allows_iff.1 hv, rfl⟩)))⟩

/-- Besides two registers, which may be the same one, and PC everything in the state is what it was. -/
theorem State.keepsFlag_setReg_setReg_goto (s : State) (p d : Phys) (y x a : Word) :
    s.keepsFlag (((s.setReg p y).setReg d x).goto a) [d, p] := by
  obtain ⟨⟨-, hmem, hsys⟩, harith⟩ := s.keepsFlag_goto a
  have hregs : s.sameRegsBut (((s.setReg p y).setReg d x).goto a) [d, p] := by
    intro q hq
    obtain ⟨hqd, hqp⟩ : q ≠ d ∧ q ≠ p := by simpa using hq
    exact (Regs.get_set_of_ne _ d q x hqd).trans (Regs.get_set_of_ne s.regs p q y hqp)
  exact ⟨⟨hregs, hmem, hsys⟩, harith⟩

/-! ## The instructions -/

theorem exec_pop_eq (rd : Reg) (s : State) : exec (.pop rd) s = execPop rd s := rfl

theorem exec_ret_eq (s : State) : exec .ret s = execRet s := rfl

/-- POP whose word is delivered: Rd is written after SP (45_io_stack.md R184). -/
theorem exec_pop_of_pop_ok {s t : State} {rd : Reg} {d : Phys} {x : Word} (hd : resolve s rd = .ok d)
    (hp : pop s = .ok (x, t)) : exec (.pop rd) s = .next ((t.setReg d x).goto (npc s 0)) := by
  rw [exec_pop_eq, execPop, hd, Eff.bind_ok, hp, Eff.bind_ok, settle_ok]

/-- POP whose read raises (45_io_stack.md R184). -/
theorem exec_pop_of_pop_raise {s : State} {rd : Reg} {d : Phys} {e : Exc} (hd : resolve s rd = .ok d)
    (hp : pop s = .raise e) : exec (.pop rd) s = raiseExc s e := by
  rw [exec_pop_eq, execPop, hd, Eff.bind_ok, hp, Eff.bind_raise, settle_raise]

/-- RET whose word is delivered (46_system.md R191). -/
theorem exec_ret_of_pop_ok {s t : State} {x : Word} (hp : pop s = .ok (x, t)) :
    exec .ret s = .next (t.goto x) := by
  rw [exec_ret_eq, execRet, hp, Eff.bind_ok, settle_ok]

/-- RET whose read raises (46_system.md R191). -/
theorem exec_ret_of_pop_raise {s : State} {e : Exc} (hp : pop s = .raise e) :
    exec .ret s = raiseExc s e := by
  rw [exec_ret_eq, execRet, hp, Eff.bind_raise, settle_raise]

end Sys2Proof.Machine

namespace Sys2Proof

open Sys2Proof.Machine

/-- Settles O38: POP and RET are their equations. POP writes Rd last, so Rd holds the word even where Rd is SP, and SP
keeps the raised value where it is not. -/
theorem popAndRet : Obligations.PopAndRet := by
  intro s sp faults
  refine ⟨fun rd d hd => ⟨fun hr => ?pop, ?popFaults⟩, fun hr => ?ret, ?retFaults⟩
  case pop =>
    have raised (hne : d ≠ spOf s) :
        ((s.regs.set (spOf s) (sp + 2)).set d (loadWord s.mem sp)).get (spOf s) = sp + 2 := by
      rw [Regs.get_set_of_ne _ d (spOf s) _ hne.symm, Regs.get_set_same]
    exact ⟨_, exec_pop_of_pop_ok hd (pop_of_canRead hr), Regs.get_set_same .., raised, rfl,
      s.keepsFlag_setReg_setReg_goto ..⟩
  case popFaults => exact faults_of_pop_raise fun _ hp => exec_pop_of_pop_raise hd hp
  case ret =>
    exact ⟨_, exec_ret_of_pop_ok (pop_of_canRead hr), rfl, Regs.get_set_same .., s.keepsFlag_setReg_goto ..⟩
  case retFaults => exact faults_of_pop_raise fun _ hp => exec_ret_of_pop_raise hp

end Sys2Proof
end

section
/-!
PROOF. The encoding (30_encoding.md sections 1 to 5). What the opcode map makes of a first word is said once as a
verdict: undefined, a non-zero pad, or an instruction whose words are that word and the second one. The verdict is
proved row by row of the map; the statements about `decode` are read off it. The way back, from an instruction to its
words, follows the same rows.
-/

namespace Sys2Proof

open Sys2Proof.Machine

/-! ## The fields of a first word -/

@[simp] theorem regOf_code (r : Reg) : regOf r.code = r := by cases r <;> rfl

@[simp] theorem code_regOf (n : Nibble) : (regOf n).code = n := by
  revert n
  decide

theorem toNat_firstWord (op : Byte) (rd rx : Nibble) :
    (firstWord op rd rx).toNat = 256 * op.toNat + 16 * rd.toNat + rx.toNat := by
  rw [firstWord, BitVec.toNat_append, BitVec.toNat_append, ← Nat.shiftLeft_add_eq_or_of_lt rx.isLt,
    ← Nat.shiftLeft_add_eq_or_of_lt rd.isLt, Nat.shiftLeft_eq, Nat.shiftLeft_eq]
  omega

theorem toNat_opField (w : Word) : (opField w).toNat = w.toNat / 256 := by
  have := w.isLt
  simp only [opField, BitVec.extractLsb'_toNat, Nat.shiftRight_eq_div_pow]
  omega

theorem toNat_rdField (w : Word) : (rdField w).toNat = w.toNat / 16 % 16 := by
  simp only [rdField, BitVec.extractLsb'_toNat, Nat.shiftRight_eq_div_pow]

theorem toNat_rxField (w : Word) : (rxField w).toNat = w.toNat % 16 := by
  simp only [rxField, BitVec.extractLsb'_toNat, Nat.shiftRight_zero]

theorem toNat_rowField (w : Word) : (rowField w).toNat = (opField w).toNat / 8 := by
  rw [toNat_opField]
  have := w.isLt
  simp only [rowField, BitVec.extractLsb'_toNat, Nat.shiftRight_eq_div_pow]
  omega

theorem toNat_modeField (w : Word) : (modeField w).toNat = (opField w).toNat % 8 := by
  rw [toNat_opField]
  simp only [modeField, BitVec.extractLsb'_toNat, Nat.shiftRight_eq_div_pow]

theorem loByte_eq_zero_iff (w : Word) : loByte w = 0 ↔ rdField w = 0 ∧ rxField w = 0 := by
  have h : (loByte w).toNat = w.toNat % 256 := by
    simp only [loByte, BitVec.extractLsb'_toNat, Nat.shiftRight_zero]
  simp only [← BitVec.toNat_inj, h, toNat_rdField, toNat_rxField, BitVec.ofNat_eq_ofNat, BitVec.toNat_ofNat]
  omega

@[simp] theorem opField_firstWord (op : Byte) (rd rx : Nibble) : opField (firstWord op rd rx) = op := by
  apply BitVec.eq_of_toNat_eq
  rw [toNat_opField, toNat_firstWord]
  omega

@[simp] theorem rdField_firstWord (op : Byte) (rd rx : Nibble) : rdField (firstWord op rd rx) = rd := by
  apply BitVec.eq_of_toNat_eq
  rw [toNat_rdField, toNat_firstWord]
  omega

@[simp] theorem rxField_firstWord (op : Byte) (rd rx : Nibble) : rxField (firstWord op rd rx) = rx := by
  apply BitVec.eq_of_toNat_eq
  rw [toNat_rxField, toNat_firstWord]
  omega

theorem firstWord_fields (w : Word) : firstWord (opField w) (rdField w) (rxField w) = w := by
  apply BitVec.eq_of_toNat_eq
  rw [toNat_firstWord, toNat_opField, toNat_rdField, toNat_rxField]
  omega


/-! ## What a first word settles -/

/-- What a decoder makes of a first word `w1`, whatever second word follows: an undefined word, else a non-zero pad,
else a value whose words are `w1` and `n` times the second word, and whose `key` the second word does not change. -/
inductive Verdict {α κ : Type} (words : α → List Word) (key : α → κ) (w1 : Word) (n : Nat) (undef pad : Prop)
    (dec : Word → Except Reject α) : Prop
  | undefined (hu : undef) (hd : ∀ w2, dec w2 = .error .undefined)
  | padNonZero (hu : ¬undef) (hp : pad) (hd : ∀ w2, dec w2 = .error .padNonZero)
  | value (hu : ¬undef) (hp : ¬pad) (f : Word → α) (hd : ∀ w2, dec w2 = .ok (f w2))
      (hw : ∀ w2, words (f w2) = w1 :: List.replicate n w2) (hk : ∀ w2, key (f w2) = key (f 0))

namespace Verdict

variable {α β κ κ' : Type} {words : α → List Word} {key : α → κ} {w1 : Word} {n : Nat} {undef pad undef' pad' : Prop}
  {dec : Word → Except Reject α}

theorem congr (h : Verdict words key w1 n undef' pad' dec) (hu : undef' ↔ undef) (hp : ¬undef → (pad' ↔ pad)) :
    Verdict words key w1 n undef pad dec := by
  cases h with
  | undefined h hd => exact .undefined (hu.1 h) hd
  | padNonZero h h' hd => exact .padNonZero (hu.not.1 h) ((hp (hu.not.1 h)).1 h') hd
  | value h h' f hd hw hk => exact .value (hu.not.1 h) ((hp (hu.not.1 h)).not.1 h') f hd hw hk

/-- A value under a constructor. -/
theorem map {words' : β → List Word} {key' : β → κ'} (c : α → β) (h : Verdict words key w1 n undef pad dec)
    (hw : ∀ x, words' (c x) = words x) (hk : ∀ x y, key x = key y → key' (c x) = key' (c y)) :
    Verdict words' key' w1 n undef pad fun w2 => (dec w2).map c := by
  cases h with
  | undefined h hd => exact .undefined h fun w2 => by rw [hd]; rfl
  | padNonZero h h' hd => exact .padNonZero h h' fun w2 => by rw [hd]; rfl
  | value h h' f hd hf hkf =>
    exact .value h h' (fun w2 => c (f w2)) (fun w2 => by rw [hd]; rfl) (fun w2 => (hw _).trans (hf w2))
      fun w2 => hk _ _ (hkf w2)

theorem of_undefined (hu : undef) : Verdict words key w1 n undef pad fun _ => .error .undefined :=
  .undefined hu fun _ => rfl

/-- A value behind a pad field `p`; a field that is no pad counts as the pad 0. -/
theorem of_padded (p : Nibble) (f : Word → α) (hd : ∀ w2, dec w2 = padded p (.ok (f w2))) (hu : ¬undef)
    (hp : pad ↔ p ≠ 0) (hw : p = 0 → ∀ w2, words (f w2) = w1 :: List.replicate n w2)
    (hk : ∀ w2, key (f w2) = key (f 0)) : Verdict words key w1 n undef pad dec := by
  by_cases h : p = 0
  · exact .value hu (fun hpad => hp.1 hpad h) f (fun w2 => by rw [hd, padded, if_pos h]) (hw h) hk
  · exact .padNonZero hu (hp.2 h) fun w2 => by rw [hd, padded, if_neg h]

end Verdict

/-! ## The operand of a first word -/

theorem mode_cases (m : BitVec 3) :
    m = 0 ∨ m = 1 ∨ m = 2 ∨ m = 3 ∨ m = 4 ∨ m = 5 ∨ m = 6 ∨ m = 7 := by
  revert m
  decide

/-- The words after the first in mode `m` (30_encoding.md R81). -/
def modeExtra (m : BitVec 3) : Nat := if m.toNat ≤ 2 then 1 else 0

/-- The first word of mode `m` in the row that begins at `base` (30_encoding.md R83). -/
def modeWord (base : Byte) (m : BitVec 3) (rd rx : Nibble) : Word := firstWord (base + m.setWidth 8) rd rx

section

variable (base : Byte) (m : BitVec 3) (rd rx : Nibble)

theorem decodeSrc_verdict : Verdict (encodeSrc base rd) Src.regs (modeWord base m rd rx) (modeExtra m) False
    ((m = 0 ∨ m = 2) ∧ rx ≠ 0) (decodeSrc m rx) := by
  rcases mode_cases m with rfl | rfl | rfl | rfl | rfl | rfl | rfl | rfl
  · exact .of_padded rx (fun w2 => .mem (.direct w2)) (fun _ => rfl) not_false (by simp)
      (by rintro rfl; simp [encodeSrc, encodeLoc, modeWord, modeExtra]) fun _ => rfl
  · exact .of_padded 0 (fun w2 => .mem (.indexed w2 (regOf rx))) (fun _ => rfl) not_false (by simp)
      (by simp [encodeSrc, encodeLoc, modeWord, modeExtra]) fun _ => rfl
  · exact .of_padded rx (fun w2 => .imm w2) (fun _ => rfl) not_false (by simp)
      (by rintro rfl; simp [encodeSrc, modeWord, modeExtra]) fun _ => rfl
  · exact .of_padded 0 (fun _ => .mem (.fpRel rx)) (fun _ => rfl) not_false (by simp)
      (by simp [encodeSrc, encodeLoc, modeWord, modeExtra]) fun _ => rfl
  · exact .of_padded 0 (fun _ => .reg (regOf rx)) (fun _ => rfl) not_false (by simp)
      (by simp [encodeSrc, modeWord, modeExtra]) fun _ => rfl
  · exact .of_padded 0 (fun _ => .imm4 rx) (fun _ => rfl) not_false (by simp)
      (by simp [encodeSrc, modeWord, modeExtra]) fun _ => rfl
  · exact .of_padded 0 (fun _ => .mem (.indirect (regOf rx))) (fun _ => rfl) not_false (by simp)
      (by simp [encodeSrc, encodeLoc, modeWord, modeExtra]) fun _ => rfl
  · exact .of_padded 0 (fun _ => .mem (.byteIndirect (regOf rx))) (fun _ => rfl) not_false (by simp)
      (by simp [encodeSrc, encodeLoc, modeWord, modeExtra]) fun _ => rfl

theorem decodeTarget_verdict : Verdict (encodeTarget base rd) Target.regs (modeWord base m rd rx) (modeExtra m)
    (m ≠ 0 ∧ m ≠ 1 ∧ m ≠ 6) (m = 0 ∧ rx ≠ 0) (decodeTarget m rx) := by
  rcases mode_cases m with rfl | rfl | rfl | rfl | rfl | rfl | rfl | rfl
  · exact .of_padded rx (fun w2 => .direct w2) (fun _ => rfl) (by simp) (by simp)
      (by rintro rfl; simp [encodeTarget, modeWord, modeExtra]) fun _ => rfl
  · exact .of_padded 0 (fun w2 => .indexed w2 (regOf rx)) (fun _ => rfl) (by simp) (by simp)
      (by simp [encodeTarget, modeWord, modeExtra]) fun _ => rfl
  · exact .undefined (by simp) fun _ => rfl
  · exact .undefined (by simp) fun _ => rfl
  · exact .undefined (by simp) fun _ => rfl
  · exact .undefined (by simp) fun _ => rfl
  · exact .of_padded 0 (fun _ => .indirect (regOf rx)) (fun _ => rfl) (by simp) (by simp)
      (by simp [encodeTarget, modeWord, modeExtra]) fun _ => rfl
  · exact .undefined (by simp) fun _ => rfl

theorem decodePort_verdict : Verdict (encodePort base rd) Port.regs (modeWord base m rd rx) (modeExtra m)
    (m ≠ 0 ∧ m ≠ 6 ∧ m ≠ 7) (m = 0 ∧ rx ≠ 0) (decodePort m rx) := by
  rcases mode_cases m with rfl | rfl | rfl | rfl | rfl | rfl | rfl | rfl
  · exact .of_padded rx (fun w2 => .direct w2) (fun _ => rfl) (by simp) (by simp)
      (by rintro rfl; simp [encodePort, modeWord, modeExtra]) fun _ => rfl
  · exact .undefined (by simp) fun _ => rfl
  · exact .undefined (by simp) fun _ => rfl
  · exact .undefined (by simp) fun _ => rfl
  · exact .undefined (by simp) fun _ => rfl
  · exact .undefined (by simp) fun _ => rfl
  · exact .of_padded 0 (fun _ => .indirect (regOf rx)) (fun _ => rfl) (by simp) (by simp)
      (by simp [encodePort, modeWord, modeExtra]) fun _ => rfl
  · exact .of_padded 0 (fun _ => .byteIndirect (regOf rx)) (fun _ => rfl) (by simp) (by simp)
      (by simp [encodePort, modeWord, modeExtra]) fun _ => rfl

theorem decodeStRow_verdict : Verdict encode Instr.defect (modeWord 0x10 m rd rx) (modeExtra m)
    (m = 2 ∨ m = 5) ((m = 0 ∨ m = 4) ∧ rx ≠ 0) (decodeStRow m rd rx) := by
  rcases mode_cases m with rfl | rfl | rfl | rfl | rfl | rfl | rfl | rfl
  · exact .of_padded rx (fun w2 => .st (regOf rd) (.direct w2)) (fun _ => rfl) (by simp) (by simp)
      (by rintro rfl; simp [encode, encodeLoc, modeWord, modeExtra]) fun _ => rfl
  · exact .of_padded 0 (fun w2 => .st (regOf rd) (.indexed w2 (regOf rx))) (fun _ => rfl) (by simp) (by simp)
      (by simp [encode, encodeLoc, modeWord, modeExtra]) fun _ => rfl
  · exact .undefined (by simp) fun _ => rfl
  · exact .of_padded 0 (fun _ => .st (regOf rd) (.fpRel rx)) (fun _ => rfl) (by simp) (by simp)
      (by simp [encode, encodeLoc, modeWord, modeExtra]) fun _ => rfl
  · exact .of_padded rx (fun _ => .ldFlag (regOf rd)) (fun _ => rfl) (by simp) (by simp)
      (by rintro rfl; simp [encode, modeWord, modeExtra]) fun _ => rfl
  · exact .undefined (by simp) fun _ => rfl
  · exact .of_padded 0 (fun _ => .st (regOf rd) (.indirect (regOf rx))) (fun _ => rfl) (by simp) (by simp)
      (by simp [encode, encodeLoc, modeWord, modeExtra]) fun _ => rfl
  · exact .of_padded 0 (fun _ => .st (regOf rd) (.byteIndirect (regOf rx))) (fun _ => rfl) (by simp) (by simp)
      (by simp [encode, encodeLoc, modeWord, modeExtra]) fun _ => rfl

end

/-! ## The rows of the opcode map -/

/-- The rows whose instructions have a source operand, by their OP byte in mode 0 (30_encoding.md R93). -/
def srcRows : List (Byte × (Reg → Src → Instr)) :=
  [(0x08, .ld), (0x18, .add), (0x20, .sub), (0x28, .cmp), (0x30, .and), (0x38, .or), (0x40, .xor), (0x48, .adds),
    (0x50, .mul), (0x58, .div), (0x60, .mod), (0x68, .mull), (0x70, .divl), (0x80, .shla), (0x88, .shll),
    (0x90, .shra), (0x98, .shrl)]

/-- The jumps by their condition number (30_encoding.md R105). -/
def jumpRows : List (Nibble × (Target → Instr)) :=
  [(0x0, .jz), (0x1, .jc), (0x2, .jm), (0x3, .jo), (0x4, .jgt), (0x5, .jge), (0x6, .jle), (0x7, .jlt), (0x8, .jnz),
    (0x9, .jnc), (0xA, .jnm), (0xB, .jno), (0xC, .jhi), (0xE, .jls), (0xF, .jmp)]

/-- The rows of IN and OUT, by their OP byte in mode 0 (30_encoding.md R93). -/
def portRows : List (Byte × (Reg → Port → Instr)) := [(0xB0, .inp), (0xB8, .out)]

/-- Whether an instruction is ill-formed depends on its register fields alone. -/
theorem defect_congr {i j : Instr} (hr : i.regs = j.regs) (hp : i.pairReg = j.pairReg) : i.defect = j.defect := by
  rw [Instr.defect, hr, hp, Instr.defect]

theorem encode_of_mem_srcRows : ∀ p ∈ srcRows, ∀ rd m, encode (p.2 rd m) = encodeSrc p.1 rd.code m := by
  simp [srcRows, encode]

theorem defect_of_mem_srcRows :
    ∀ p ∈ srcRows, ∀ rd (m m' : Src), m.regs = m'.regs → (p.2 rd m).defect = (p.2 rd m').defect := by
  have regs : ∀ p ∈ srcRows, ∀ rd m, (p.2 rd m).regs = rd :: m.regs := by simp [srcRows, Instr.regs]
  have pairReg : ∀ p ∈ srcRows, ∀ rd m m', (p.2 rd m).pairReg = (p.2 rd m').pairReg := by
    simp [srcRows, Instr.pairReg]
  intro p hp rd m m' h
  exact defect_congr (by rw [regs p hp, regs p hp, h]) (pairReg p hp rd m m')

theorem decodeMap_of_mem_srcRows : ∀ p ∈ srcRows, ∀ w1 w2, (rowField w1).toNat = p.1.toNat / 8 →
    decodeMap w1 w2 = (decodeSrc (modeField w1) (rxField w1) w2).map (p.2 (regOf (rdField w1))) := by
  simp +contextual [srcRows, decodeMap]

theorem encode_of_mem_jumpRows : ∀ p ∈ jumpRows, ∀ t, encode (p.2 t) = encodeTarget 0xA0 p.1 t := by
  simp [jumpRows, encode]

theorem defect_of_mem_jumpRows :
    ∀ p ∈ jumpRows, ∀ t t' : Target, t.regs = t'.regs → (p.2 t).defect = (p.2 t').defect := by
  have regs : ∀ p ∈ jumpRows, ∀ t, (p.2 t).regs = t.regs := by simp [jumpRows, Instr.regs]
  have pairReg : ∀ p ∈ jumpRows, ∀ t, (p.2 t).pairReg = none := by simp [jumpRows, Instr.pairReg]
  intro p hp t t' h
  exact defect_congr (by rw [regs p hp, regs p hp, h]) (by rw [pairReg p hp, pairReg p hp])

theorem jumpOf_of_mem_jumpRows : ∀ p ∈ jumpRows, jumpOf p.1 = some p.2 := by
  simp [jumpRows, jumpOf]

theorem mem_jumpRows_or (cond : Nibble) : cond = 0xD ∨ ∃ p ∈ jumpRows, p.1 = cond := by
  revert cond
  decide

theorem encode_of_mem_portRows : ∀ p ∈ portRows, ∀ rd m, encode (p.2 rd m) = encodePort p.1 rd.code m := by
  simp [portRows, encode]

theorem defect_of_mem_portRows :
    ∀ p ∈ portRows, ∀ rd (m m' : Port), m.regs = m'.regs → (p.2 rd m).defect = (p.2 rd m').defect := by
  have regs : ∀ p ∈ portRows, ∀ rd m, (p.2 rd m).regs = rd :: m.regs := by simp [portRows, Instr.regs]
  have pairReg : ∀ p ∈ portRows, ∀ rd m, (p.2 rd m).pairReg = none := by simp [portRows, Instr.pairReg]
  intro p hp rd m m' h
  exact defect_congr (by rw [regs p hp, regs p hp, h]) (by rw [pairReg p hp, pairReg p hp])

theorem decodeMap_of_mem_portRows : ∀ p ∈ portRows, ∀ w1 w2, (rowField w1).toNat = p.1.toNat / 8 →
    decodeMap w1 w2 = (decodePort (modeField w1) (rxField w1) w2).map (p.2 (regOf (rdField w1))) := by
  simp +contextual [portRows, decodeMap]

theorem decodeMap_of_stRow {w1 : Word} (h : (rowField w1).toNat = 0x02) :
    decodeMap w1 = decodeStRow (modeField w1) (rdField w1) (rxField w1) := by
  funext w2
  simp [decodeMap, h]

theorem decodeMap_of_jumpRow {w1 : Word} (h : (rowField w1).toNat = 0x14) :
    decodeMap w1 = decodeJump (modeField w1) (rdField w1) (rxField w1) := by
  funext w2
  simp [decodeMap, h]

theorem decodeMap_of_callRow {w1 : Word} (h : (rowField w1).toNat = 0x15) :
    decodeMap w1 = decodeCall (modeField w1) (rdField w1) (rxField w1) := by
  funext w2
  simp [decodeMap, h]

theorem decodeMap_of_shortRow {w1 : Word} (h : (rowField w1).toNat ∈ [0x00, 0x0F] ∨ 0x18 ≤ (rowField w1).toNat) :
    decodeMap w1 = fun _ => decodeShort (opField w1) (rdField w1) (rxField w1) := by
  funext w2
  unfold decodeMap
  simp only [List.mem_cons, List.not_mem_nil, or_false] at h
  split <;> first | rfl | omega


/-! ## The verdict on a first word -/

/-- The words after the first word `w1` (30_encoding.md R81). -/
def extraOf (w1 : Word) : Nat :=
  if 0x08 ≤ (opField w1).toNat ∧ (opField w1).toNat ≤ 0xBF ∧ (opField w1).toNat % 8 ≤ 2 then 1 else 0

/-- A first word is the word of its mode in its row. -/
theorem modeWord_of_row {w1 : Word} {base : Byte} (h : base.toNat = 8 * (rowField w1).toNat) :
    modeWord base (modeField w1) (rdField w1) (rxField w1) = w1 := by
  have hop : base + (modeField w1).setWidth 8 = opField w1 := by
    apply BitVec.eq_of_toNat_eq
    have hm := toNat_modeField w1
    rw [toNat_rowField] at h
    rw [BitVec.toNat_add, BitVec.toNat_setWidth, hm, h]
    omega
  rw [modeWord, hop, firstWord_fields]

theorem modeExtra_eq_extraOf {w1 : Word} (h1 : 1 ≤ (rowField w1).toNat) (h2 : (rowField w1).toNat ≤ 0x17) :
    modeExtra (modeField w1) = extraOf w1 := by
  rw [toNat_rowField] at h1 h2
  simp only [modeExtra, extraOf, toNat_modeField]
  congr 1
  simp only [eq_iff_iff]
  omega

theorem modeField_eq_iff (w1 : Word) (m : BitVec 3) : modeField w1 = m ↔ (opField w1).toNat % 8 = m.toNat := by
  rw [← toNat_modeField, BitVec.toNat_inj]

theorem opField_eq_iff (w1 : Word) (op : Byte) : opField w1 = op ↔ (opField w1).toNat = op.toNat :=
  BitVec.toNat_inj.symm

theorem nibble_eq_iff (n k : Nibble) : n = k ↔ n.toNat = k.toNat := BitVec.toNat_inj.symm

/-- The first words with a blank OP byte, by ranges of numbers (30_encoding.md R96). -/
theorem blankOp_iff (op : Nat) : blankOp op = true ↔
    1 ≤ op ∧ op ≤ 7 ∨ op = 0x12 ∨ op = 0x15 ∨ 0x78 ≤ op ∧ op ≤ 0x7F ∨ 0xA2 ≤ op ∧ op ≤ 0xA5 ∨ op = 0xA7 ∨
      0xAA ≤ op ∧ op ≤ 0xAD ∨ op = 0xAF ∨ 0xB1 ≤ op ∧ op ≤ 0xB5 ∨ 0xB9 ≤ op ∧ op ≤ 0xBD ∨
      0xC0 ≤ op ∧ op ≠ 0xC0 ∧ op ≠ 0xC4 ∧ op ≠ 0xD0 ∧ op ≠ 0xD4 ∧ op ≠ 0xE0 ∧ op ≠ 0xE4 ∧ op ≠ 0xF0 ∧ op < 0xFF := by
  simp only [blankOp, Bool.or_eq_true, Bool.and_eq_true, decide_eq_true_eq, beq_iff_eq]
  omega

/-- `undefinedWord` with the number of the OP byte. -/
theorem undefinedWord_iff (w1 : Word) : undefinedWord w1 ↔
    blankOp (opField w1).toNat = true ∨
      ((opField w1).toNat = 0xA0 ∨ (opField w1).toNat = 0xA1 ∨ (opField w1).toNat = 0xA6) ∧
        (rdField w1).toNat = 0xD := by
  simp [undefinedWord, opField_eq_iff, nibble_eq_iff]

/-- `nonZeroPad` with the number of the OP byte, the pad of format *9 as its two fields. -/
theorem nonZeroPad_iff (w1 : Word) : nonZeroPad w1 ↔
    ((0x08 ≤ (opField w1).toNat ∧ (opField w1).toNat ≤ 0xBF ∧
          ((opField w1).toNat % 8 = 0 ∨ (opField w1).toNat % 8 = 2) ∨
        (opField w1).toNat = 0x14 ∨ (opField w1).toNat = 0xC0 ∨ (opField w1).toNat = 0xC4) ∧ (rxField w1).toNat ≠ 0) ∨
      (((opField w1).toNat = 0xA8 ∨ (opField w1).toNat = 0xA9 ∨ (opField w1).toNat = 0xAE) ∧ (rdField w1).toNat ≠ 0) ∨
      ((opField w1).toNat = 0x00 ∨ (opField w1).toNat = 0xD0 ∨ (opField w1).toNat = 0xD4 ∨
        (opField w1).toNat = 0xE0 ∨ (opField w1).toNat = 0xE4 ∨ (opField w1).toNat = 0xF0 ∨
        (opField w1).toNat = 0xFF) ∧
        ¬((rdField w1).toNat = 0 ∧ (rxField w1).toNat = 0) := by
  simp only [nonZeroPad, loByte_eq_zero_iff, List.mem_cons, List.not_mem_nil, or_false, ne_eq, nibble_eq_iff]
  rfl

/-- The verdict on the words of one row. -/
def RowVerdict (w1 : Word) : Prop :=
  Verdict encode Instr.defect w1 (extraOf w1) (undefinedWord w1) (nonZeroPad w1) (decodeMap w1)

/-- A verdict on the operand is the verdict on the word, when the conditions agree. -/
theorem RowVerdict.of_verdict {w1 : Word} {undef pad : Prop} {dec : Word → Except Reject Instr}
    (h1 : 1 ≤ (rowField w1).toNat) (h2 : (rowField w1).toNat ≤ 0x17) (hd : decodeMap w1 = dec)
    (h : Verdict encode Instr.defect w1 (modeExtra (modeField w1)) undef pad dec) (hu : undef ↔ undefinedWord w1)
    (hp : ¬undefinedWord w1 → (pad ↔ nonZeroPad w1)) : RowVerdict w1 := by
  rw [RowVerdict, ← modeExtra_eq_extraOf h1 h2, hd]
  exact h.congr hu hp

theorem srcRow_verdict {p : Byte × (Reg → Src → Instr)} (hp : p ∈ srcRows) {w1 : Word}
    (h : p.1.toNat = 8 * (rowField w1).toNat) : RowVerdict w1 := by
  have hbase : ∀ p ∈ srcRows, 8 ≤ p.1.toNat ∧ p.1.toNat ≤ 0x98 ∧ p.1.toNat ≠ 0x10 ∧ p.1.toNat ≠ 0x78 := by
    simp [srcRows]
  have hrow := toNat_rowField w1
  have hrange := hbase p hp
  have hv := decodeSrc_verdict p.1 (modeField w1) (rdField w1) (rxField w1)
  rw [modeWord_of_row h] at hv
  refine .of_verdict (by omega) (by omega) (funext fun w2 => decodeMap_of_mem_srcRows p hp w1 w2 (by omega))
    (hv.map (p.2 (regOf (rdField w1))) (fun m => ?words) (defect_of_mem_srcRows p hp _)) ?undef fun _ => ?pad
  case words => rw [encode_of_mem_srcRows p hp, code_regOf]
  case undef =>
    rw [undefinedWord_iff, blankOp_iff, false_iff]
    omega
  case pad =>
    rw [nonZeroPad_iff]
    simp only [ne_eq, modeField_eq_iff, nibble_eq_iff, BitVec.ofNat_eq_ofNat, BitVec.toNat_ofNat]
    omega

theorem portRow_verdict {p : Byte × (Reg → Port → Instr)} (hp : p ∈ portRows) {w1 : Word}
    (h : p.1.toNat = 8 * (rowField w1).toNat) : RowVerdict w1 := by
  have hbase : ∀ p ∈ portRows, p.1.toNat = 0xB0 ∨ p.1.toNat = 0xB8 := by simp [portRows]
  have hrow := toNat_rowField w1
  have hrange := hbase p hp
  have hv := decodePort_verdict p.1 (modeField w1) (rdField w1) (rxField w1)
  rw [modeWord_of_row h] at hv
  refine .of_verdict (by omega) (by omega) (funext fun w2 => decodeMap_of_mem_portRows p hp w1 w2 (by omega))
    (hv.map (p.2 (regOf (rdField w1))) (fun m => ?words) (defect_of_mem_portRows p hp _)) ?undef ?pad
  case words => rw [encode_of_mem_portRows p hp, code_regOf]
  case undef =>
    rw [undefinedWord_iff, blankOp_iff]
    simp only [ne_eq, modeField_eq_iff, BitVec.ofNat_eq_ofNat, BitVec.toNat_ofNat]
    omega
  case pad =>
    rw [undefinedWord_iff, blankOp_iff, nonZeroPad_iff]
    simp only [ne_eq, modeField_eq_iff, nibble_eq_iff, BitVec.ofNat_eq_ofNat, BitVec.toNat_ofNat]
    omega

theorem stRow_verdict {w1 : Word} (h : (rowField w1).toNat = 0x02) : RowVerdict w1 := by
  have hrow := toNat_rowField w1
  have hv := decodeStRow_verdict (modeField w1) (rdField w1) (rxField w1)
  rw [modeWord_of_row (by rw [h]; rfl)] at hv
  refine .of_verdict (by omega) (by omega) (decodeMap_of_stRow h) hv ?undef ?pad
  case undef =>
    rw [undefinedWord_iff, blankOp_iff]
    simp only [modeField_eq_iff, BitVec.ofNat_eq_ofNat, BitVec.toNat_ofNat]
    omega
  case pad =>
    rw [undefinedWord_iff, blankOp_iff, nonZeroPad_iff]
    simp only [ne_eq, modeField_eq_iff, nibble_eq_iff, BitVec.ofNat_eq_ofNat, BitVec.toNat_ofNat]
    omega

theorem jumpRow_verdict {w1 : Word} (h : (rowField w1).toNat = 0x14) : RowVerdict w1 := by
  have hrow := toNat_rowField w1
  rcases mem_jumpRows_or (rdField w1) with hD | ⟨p, hp, hcond⟩
  case inl =>
    have hdec : decodeMap w1 = fun _ => .error .undefined := by
      rw [decodeMap_of_jumpRow h, hD]
      rfl
    rw [RowVerdict, hdec]
    refine .undefined ?_ fun _ => rfl
    rw [undefinedWord_iff, blankOp_iff, hD]
    simp only [BitVec.ofNat_eq_ofNat, BitVec.toNat_ofNat, and_true]
    omega
  case inr =>
    have hdec : decodeMap w1 = fun w2 => (decodeTarget (modeField w1) (rxField w1) w2).map p.2 := by
      funext w2
      rw [decodeMap_of_jumpRow h, decodeJump, ← hcond, jumpOf_of_mem_jumpRows p hp]
    have hne : (rdField w1).toNat ≠ 0xD := by
      have : ∀ p ∈ jumpRows, p.1.toNat ≠ 0xD := by simp [jumpRows]
      exact hcond ▸ this p hp
    have hv := decodeTarget_verdict 0xA0 (modeField w1) (rdField w1) (rxField w1)
    rw [modeWord_of_row (by rw [h]; rfl)] at hv
    refine .of_verdict (by omega) (by omega) hdec
      (hv.map p.2 (fun t => ?words) (defect_of_mem_jumpRows p hp)) ?undef ?pad
    case words => rw [encode_of_mem_jumpRows p hp, hcond]
    case undef =>
      rw [undefinedWord_iff, blankOp_iff]
      simp only [ne_eq, modeField_eq_iff, BitVec.ofNat_eq_ofNat, BitVec.toNat_ofNat]
      omega
    case pad =>
      rw [undefinedWord_iff, blankOp_iff, nonZeroPad_iff]
      simp only [ne_eq, modeField_eq_iff, nibble_eq_iff, BitVec.ofNat_eq_ofNat, BitVec.toNat_ofNat]
      omega


theorem callRow_verdict {w1 : Word} (h : (rowField w1).toNat = 0x15) : RowVerdict w1 := by
  have hrow := toNat_rowField w1
  have hv := decodeTarget_verdict 0xA8 (modeField w1) (rdField w1) (rxField w1)
  rw [modeWord_of_row (by rw [h]; rfl)] at hv
  have hcall : Verdict encode Instr.defect w1 (modeExtra (modeField w1))
      (modeField w1 ≠ 0 ∧ modeField w1 ≠ 1 ∧ modeField w1 ≠ 6)
      (modeField w1 = 0 ∧ rxField w1 ≠ 0 ∨ rdField w1 ≠ 0) (decodeCall (modeField w1) (rdField w1) (rxField w1)) := by
    cases hv with
    | undefined hu hd => exact .undefined hu fun w2 => by rw [decodeCall, hd]
    | padNonZero hu hp hd => exact .padNonZero hu (.inl hp) fun w2 => by rw [decodeCall, hd]
    | value hu hp f hd hw hk =>
      refine .of_padded (rdField w1) (fun w2 => .call (f w2)) (fun w2 => by rw [decodeCall, hd]) hu
        (or_iff_right hp) (fun h0 w2 => ?_) fun w2 => defect_congr (hk w2) rfl
      rw [← hw w2, h0]
      rfl
  refine .of_verdict (by omega) (by omega) (decodeMap_of_callRow h) hcall ?undef ?pad
  case undef =>
    rw [undefinedWord_iff, blankOp_iff]
    simp only [ne_eq, modeField_eq_iff, BitVec.ofNat_eq_ofNat, BitVec.toNat_ofNat]
    omega
  case pad =>
    rw [undefinedWord_iff, blankOp_iff, nonZeroPad_iff]
    simp only [ne_eq, modeField_eq_iff, nibble_eq_iff, BitVec.ofNat_eq_ofNat, BitVec.toNat_ofNat]
    omega

/-- The instructions of format *9 by their OP byte (30_encoding.md R94). -/
def bareRows : List (Byte × Instr) :=
  [(0x00, .no), (0xD0, .ret), (0xD4, .reti), (0xE0, .ei), (0xE4, .di), (0xF0, .svc), (0xFF, .halt)]

/-- The instructions of format *8 by their OP byte (30_encoding.md R94). -/
def regRows : List (Byte × (Reg → Instr)) := [(0xC0, .push), (0xC4, .pop)]

theorem encode_of_mem_bareRows : ∀ p ∈ bareRows, encode p.2 = [firstWord p.1 0 0] := by
  simp [bareRows, encode]

theorem decodeShort_of_mem_bareRows :
    ∀ p ∈ bareRows, ∀ rd rx, decodeShort p.1 rd rx = padded rd (padded rx (.ok p.2)) := by
  simp [bareRows, decodeShort]

theorem encode_of_mem_regRows : ∀ p ∈ regRows, ∀ rd, encode (p.2 rd) = [firstWord p.1 rd.code 0] := by
  simp [regRows, encode]

theorem decodeShort_of_mem_regRows :
    ∀ p ∈ regRows, ∀ rd rx, decodeShort p.1 rd rx = padded rx (.ok (p.2 (regOf rd))) := by
  simp [regRows, decodeShort]

theorem extraOf_of_row {w1 : Word} (h : (rowField w1).toNat = 0 ∨ 0x18 ≤ (rowField w1).toNat) : extraOf w1 = 0 := by
  have hrow := toNat_rowField w1
  exact if_neg (by omega)

theorem bareRow_verdict {p : Byte × Instr} (hp : p ∈ bareRows) {w1 : Word} (h : p.1 = opField w1) :
    RowVerdict w1 := by
  have hop : ∀ p ∈ bareRows, p.1.toNat = 0x00 ∨ p.1.toNat = 0xD0 ∨ p.1.toNat = 0xD4 ∨ p.1.toNat = 0xE0 ∨
      p.1.toNat = 0xE4 ∨ p.1.toNat = 0xF0 ∨ p.1.toNat = 0xFF := by simp [bareRows]
  have hop := h ▸ hop p hp
  have hrow := toNat_rowField w1
  have hu : ¬undefinedWord w1 := by
    rw [undefinedWord_iff, blankOp_iff]
    omega
  have hpad : nonZeroPad w1 ↔ ¬((rdField w1).toNat = 0 ∧ (rxField w1).toNat = 0) := by
    rw [nonZeroPad_iff]
    omega
  have hdec : decodeMap w1 = fun _ => padded (rdField w1) (padded (rxField w1) (.ok p.2)) := by
    rw [decodeMap_of_shortRow (by simp; omega), ← h]
    simp only [decodeShort_of_mem_bareRows p hp]
  rw [RowVerdict, hdec, extraOf_of_row (by omega)]
  by_cases hd : rdField w1 = 0
  case pos =>
    refine .of_padded (rxField w1) (fun _ => p.2) (fun _ => by rw [hd]; rfl) hu ?pad (fun hx w2 => ?words) fun _ => rfl
    case pad => simp [hpad, hd, nibble_eq_iff]
    case words =>
      rw [encode_of_mem_bareRows p hp, h]
      conv => rhs; rw [← firstWord_fields w1, hd, hx]
      rfl
  case neg =>
    refine .padNonZero hu (hpad.2 ?_) fun _ => by rw [padded, if_neg hd]
    exact fun h0 => hd ((nibble_eq_iff _ _).2 h0.1)

theorem regRow_verdict {p : Byte × (Reg → Instr)} (hp : p ∈ regRows) {w1 : Word} (h : p.1 = opField w1) :
    RowVerdict w1 := by
  have hop : ∀ p ∈ regRows, p.1.toNat = 0xC0 ∨ p.1.toNat = 0xC4 := by simp [regRows]
  have hop := h ▸ hop p hp
  have hrow := toNat_rowField w1
  have hdec : decodeMap w1 = fun _ => padded (rxField w1) (.ok (p.2 (regOf (rdField w1)))) := by
    rw [decodeMap_of_shortRow (by simp; omega), ← h]
    simp only [decodeShort_of_mem_regRows p hp]
  rw [RowVerdict, hdec, extraOf_of_row (by omega)]
  refine .of_padded (rxField w1) (fun _ => p.2 (regOf (rdField w1))) (fun _ => rfl) ?undef ?pad (fun hx w2 => ?words)
    fun _ => rfl
  case undef =>
    rw [undefinedWord_iff, blankOp_iff]
    omega
  case pad =>
    rw [nonZeroPad_iff]
    simp only [ne_eq, nibble_eq_iff, BitVec.ofNat_eq_ofNat, BitVec.toNat_ofNat]
    omega
  case words =>
    rw [encode_of_mem_regRows p hp, h, code_regOf]
    conv => rhs; rw [← firstWord_fields w1, hx]
    rfl

/-- An OP byte of no row and of no short format is blank (30_encoding.md R96). -/
theorem blankRow_verdict {w1 : Word}
    (h : (rowField w1).toNat = 0x00 ∨ (rowField w1).toNat = 0x0F ∨ 0x18 ≤ (rowField w1).toNat)
    (hb : ∀ p ∈ bareRows, p.1 ≠ opField w1) (hr : ∀ p ∈ regRows, p.1 ≠ opField w1) : RowVerdict w1 := by
  have hrow := toNat_rowField w1
  simp only [bareRows, regRows, List.mem_cons, List.not_mem_nil, or_false, forall_eq_or_imp, forall_eq, ne_eq,
    eq_comm (b := opField w1), opField_eq_iff, BitVec.ofNat_eq_ofNat, BitVec.toNat_ofNat] at hb hr
  have hdec : decodeMap w1 = fun _ => .error .undefined := by
    rw [decodeMap_of_shortRow (by simp; omega)]
    funext w2
    unfold decodeShort
    split <;> first | rfl | omega
  rw [RowVerdict, hdec]
  refine .undefined ?_ fun _ => rfl
  rw [undefinedWord_iff, blankOp_iff]
  omega

/-- Every first word has its verdict: the row of the opcode map decides which of the kinds of rows it is in. -/
theorem verdict (w1 : Word) : RowVerdict w1 := by
  have hrow := (rowField w1).isLt
  by_cases hsrc : ∃ p ∈ srcRows, p.1.toNat = 8 * (rowField w1).toNat
  · obtain ⟨p, hp, h⟩ := hsrc
    exact srcRow_verdict hp h
  by_cases hport : ∃ p ∈ portRows, p.1.toNat = 8 * (rowField w1).toNat
  · obtain ⟨p, hp, h⟩ := hport
    exact portRow_verdict hp h
  by_cases hst : (rowField w1).toNat = 0x02
  · exact stRow_verdict hst
  by_cases hjump : (rowField w1).toNat = 0x14
  · exact jumpRow_verdict hjump
  by_cases hcall : (rowField w1).toNat = 0x15
  · exact callRow_verdict hcall
  by_cases hbare : ∃ p ∈ bareRows, p.1 = opField w1
  · obtain ⟨p, hp, h⟩ := hbare
    exact bareRow_verdict hp h
  by_cases hreg : ∃ p ∈ regRows, p.1 = opField w1
  · obtain ⟨p, hp, h⟩ := hreg
    exact regRow_verdict hp h
  refine blankRow_verdict ?_ (fun p hp h => hbare ⟨p, hp, h⟩) fun p hp h => hreg ⟨p, hp, h⟩
  simp [srcRows, portRows] at hsrc hport
  omega


/-! ## The decoder -/

theorem length_encode (i : Instr) : (encode i).length = 1 + i.extraWords := by
  cases i <;> simp [encode, Instr.extraWords, Laws.EncodeLength.src, Laws.EncodeLength.loc, Laws.EncodeLength.target,
    Laws.EncodeLength.port]

/-- The decoder checks the register fields of what the opcode map delivers. -/
theorem decode_of_decodeMap_ok {w1 w2 : Word} {i : Instr} (h : decodeMap w1 w2 = .ok i) :
    decode w1 w2 = i.defect.elim (.ok i) fun d => .error (.illFormed d) := by
  rw [decode, h]
  dsimp only
  cases i.defect <;> rfl

theorem decode_of_decodeMap_error {w1 w2 : Word} {r : Reject} (h : decodeMap w1 w2 = .error r) :
    decode w1 w2 = .error r := by
  rw [decode, h]

/-- A word that is neither undefined nor padded: one instruction for each second word, all with the same defect. -/
theorem exists_instr {w1 : Word} (hu : ¬undefinedWord w1) (hp : ¬nonZeroPad w1) : ∃ f : Word → Instr,
    ∀ w2, decode w1 w2 = (f 0).defect.elim (.ok (f w2)) (fun d => .error (.illFormed d)) ∧
      (f w2).extraWords = extraOf w1 ∧ encode (f w2) = w1 :: List.replicate (extraOf w1) w2 := by
  cases verdict w1 with
  | undefined hu' => exact absurd hu' hu
  | padNonZero _ hp' => exact absurd hp' hp
  | value _ _ f hd hw hk =>
    refine ⟨f, fun w2 => ⟨by rw [decode_of_decodeMap_ok (hd w2), hk w2], ?_, hw w2⟩⟩
    have hlen := length_encode (f w2)
    rw [hw w2, List.length_cons, List.length_replicate] at hlen
    omega

theorem decode_of_undefinedWord {w1 : Word} (h : undefinedWord w1) (w2 : Word) : decode w1 w2 = .error .undefined := by
  cases verdict w1 with
  | undefined _ hd => exact decode_of_decodeMap_error (hd w2)
  | padNonZero hu => exact absurd h hu
  | value hu => exact absurd h hu

theorem decode_of_nonZeroPad {w1 : Word} (hu : ¬undefinedWord w1) (hp : nonZeroPad w1) (w2 : Word) :
    decode w1 w2 = .error .padNonZero := by
  cases verdict w1 with
  | undefined hu' => exact absurd hu' hu
  | padNonZero _ _ hd => exact decode_of_decodeMap_error (hd w2)
  | value _ hp' => exact absurd hp hp'

/-- What is left for a word that is neither: an instruction or an ill-formed register field. -/
theorem decode_ne_error_of_not {w1 : Word} (hu : ¬undefinedWord w1) (hp : ¬nonZeroPad w1) (w2 : Word) :
    decode w1 w2 ≠ .error .undefined ∧ decode w1 w2 ≠ .error .padNonZero := by
  obtain ⟨f, hf⟩ := exists_instr hu hp
  rw [(hf w2).1]
  cases (f 0).defect <;> simp

theorem decode_eq_undefined_iff {w1 w2 : Word} : decode w1 w2 = .error .undefined ↔ undefinedWord w1 := by
  refine ⟨fun h => ?_, fun h => decode_of_undefinedWord h w2⟩
  by_contra hu
  by_cases hp : nonZeroPad w1
  · rw [decode_of_nonZeroPad hu hp] at h
    simp at h
  · exact (decode_ne_error_of_not hu hp w2).1 h

theorem decode_eq_padNonZero_iff {w1 w2 : Word} :
    decode w1 w2 = .error .padNonZero ↔ ¬undefinedWord w1 ∧ nonZeroPad w1 := by
  refine ⟨fun h => ?_, fun h => decode_of_nonZeroPad h.1 h.2 w2⟩
  have hu : ¬undefinedWord w1 := fun hu => by
    rw [decode_of_undefinedWord hu] at h
    simp at h
  exact ⟨hu, by_contra fun hp => (decode_ne_error_of_not hu hp w2).2 h⟩

/-- Words that decode: the first is neither undefined nor padded, its instruction has no defect. -/
theorem decode_eq_ok {w1 w2 : Word} {i : Instr} (h : decode w1 w2 = .ok i) :
    i.extraWords = extraOf w1 ∧ encode i = w1 :: List.replicate (extraOf w1) w2 ∧
      ∀ v, ∃ j, decode w1 v = .ok j ∧ j.extraWords = extraOf w1 := by
  have hu : ¬undefinedWord w1 := fun hu => by
    rw [decode_of_undefinedWord hu] at h
    simp at h
  have hp : ¬nonZeroPad w1 := fun hp => by
    rw [decode_of_nonZeroPad hu hp] at h
    simp at h
  obtain ⟨f, hf⟩ := exists_instr hu hp
  obtain ⟨hdec, hx, hw⟩ := hf w2
  rw [h] at hdec
  cases hdef : (f 0).defect with
  | some d =>
    rw [hdef] at hdec
    cases hdec
  | none =>
    rw [hdef] at hdec
    cases hdec
    exact ⟨hx, hw, fun v => ⟨f v, by rw [(hf v).1, hdef]; rfl, (hf v).2.1⟩⟩

/-! ## The words of a well-formed instruction -/

/-- `encodeSrc` gives the word of a mode, from which `decodeSrc` reads the operand back. -/
theorem encodeSrc_decodes (base : Byte) (rd : Nibble) (s : Src) : ∃ m rx rest,
    encodeSrc base rd s = modeWord base m rd rx :: rest ∧
      ∀ w2, (∀ w ∈ rest, w = w2) → decodeSrc m rx w2 = .ok s := by
  cases s with
  | mem l =>
    cases l with
    | direct dsp => exact ⟨0, 0, [dsp], by simp [encodeSrc, encodeLoc, modeWord], by simp [decodeSrc, padded]⟩
    | indexed dsp rx => exact ⟨1, rx.code, [dsp], rfl, by simp [decodeSrc]⟩
    | fpRel d4 => exact ⟨3, d4, [], rfl, by simp [decodeSrc]⟩
    | indirect rx => exact ⟨6, rx.code, [], rfl, by simp [decodeSrc]⟩
    | byteIndirect rx => exact ⟨7, rx.code, [], rfl, by simp [decodeSrc]⟩
  | imm v => exact ⟨2, 0, [v], rfl, by simp [decodeSrc, padded]⟩
  | reg rs => exact ⟨4, rs.code, [], rfl, by simp [decodeSrc]⟩
  | imm4 i4 => exact ⟨5, i4, [], rfl, by simp [decodeSrc]⟩

theorem encodeTarget_decodes (base : Byte) (rd : Nibble) (t : Target) : ∃ m rx rest,
    encodeTarget base rd t = modeWord base m rd rx :: rest ∧
      ∀ w2, (∀ w ∈ rest, w = w2) → decodeTarget m rx w2 = .ok t := by
  cases t with
  | direct dsp => exact ⟨0, 0, [dsp], by simp [encodeTarget, modeWord], by simp [decodeTarget, padded]⟩
  | indexed dsp rx => exact ⟨1, rx.code, [dsp], rfl, by simp [decodeTarget]⟩
  | indirect rx => exact ⟨6, rx.code, [], rfl, by simp [decodeTarget]⟩

theorem encodePort_decodes (base : Byte) (rd : Nibble) (p : Port) : ∃ m rx rest,
    encodePort base rd p = modeWord base m rd rx :: rest ∧
      ∀ w2, (∀ w ∈ rest, w = w2) → decodePort m rx w2 = .ok p := by
  cases p with
  | direct dsp => exact ⟨0, 0, [dsp], by simp [encodePort, modeWord], by simp [decodePort, padded]⟩
  | indirect rx => exact ⟨6, rx.code, [], rfl, by simp [decodePort]⟩
  | byteIndirect rx => exact ⟨7, rx.code, [], rfl, by simp [decodePort]⟩

theorem encodeLoc_decodes (rd : Reg) (l : Loc) : ∃ m rx rest,
    encodeLoc 0x10 rd.code l = modeWord 0x10 m rd.code rx :: rest ∧
      ∀ w2, (∀ w ∈ rest, w = w2) → decodeStRow m rd.code rx w2 = .ok (.st rd l) := by
  cases l with
  | direct dsp => exact ⟨0, 0, [dsp], by simp [encodeLoc, modeWord], by simp [decodeStRow, padded]⟩
  | indexed dsp rx => exact ⟨1, rx.code, [dsp], rfl, by simp [decodeStRow]⟩
  | fpRel d4 => exact ⟨3, d4, [], rfl, by simp [decodeStRow]⟩
  | indirect rx => exact ⟨6, rx.code, [], rfl, by simp [decodeStRow]⟩
  | byteIndirect rx => exact ⟨7, rx.code, [], rfl, by simp [decodeStRow]⟩

section

variable {base : Byte} (m : BitVec 3) (rd rx : Nibble)

theorem modeField_modeWord (h : base.toNat % 8 = 0) : modeField (modeWord base m rd rx) = m := by
  apply BitVec.eq_of_toNat_eq
  rw [toNat_modeField, modeWord, opField_firstWord, BitVec.toNat_add, BitVec.toNat_setWidth]
  omega

theorem toNat_rowField_modeWord (h : base.toNat % 8 = 0) :
    (rowField (modeWord base m rd rx)).toNat = base.toNat / 8 := by
  rw [toNat_rowField, modeWord, opField_firstWord, BitVec.toNat_add, BitVec.toNat_setWidth]
  omega

@[simp] theorem rdField_modeWord : rdField (modeWord base m rd rx) = rd := rdField_firstWord _ _ _

@[simp] theorem rxField_modeWord : rxField (modeWord base m rd rx) = rx := rxField_firstWord _ _ _

end

/-- The words of `i` are read back by the opcode map, whatever stands for a second word that `i` has not. -/
def MapsBack (i : Instr) : Prop :=
  ∃ w1 rest, encode i = w1 :: rest ∧ ∀ w2, (∀ w ∈ rest, w = w2) → decodeMap w1 w2 = .ok i

theorem mapsBack_src {p : Byte × (Reg → Src → Instr)} (hp : p ∈ srcRows) (rd : Reg) (s : Src) :
    MapsBack (p.2 rd s) := by
  have hbase : ∀ p ∈ srcRows, p.1.toNat % 8 = 0 := by simp [srcRows]
  obtain ⟨m, rx, rest, henc, hdec⟩ := encodeSrc_decodes p.1 rd.code s
  refine ⟨_, rest, (encode_of_mem_srcRows p hp rd s).trans henc, fun w2 hw => ?_⟩
  rw [decodeMap_of_mem_srcRows p hp _ _ (toNat_rowField_modeWord _ _ _ (hbase p hp)),
    modeField_modeWord _ _ _ (hbase p hp), rxField_modeWord, rdField_modeWord, hdec w2 hw, regOf_code]
  rfl

theorem mapsBack_port {p : Byte × (Reg → Port → Instr)} (hp : p ∈ portRows) (rd : Reg) (q : Port) :
    MapsBack (p.2 rd q) := by
  have hbase : ∀ p ∈ portRows, p.1.toNat % 8 = 0 := by simp [portRows]
  obtain ⟨m, rx, rest, henc, hdec⟩ := encodePort_decodes p.1 rd.code q
  refine ⟨_, rest, (encode_of_mem_portRows p hp rd q).trans henc, fun w2 hw => ?_⟩
  rw [decodeMap_of_mem_portRows p hp _ _ (toNat_rowField_modeWord _ _ _ (hbase p hp)),
    modeField_modeWord _ _ _ (hbase p hp), rxField_modeWord, rdField_modeWord, hdec w2 hw, regOf_code]
  rfl

theorem mapsBack_jump {p : Nibble × (Target → Instr)} (hp : p ∈ jumpRows) (t : Target) : MapsBack (p.2 t) := by
  obtain ⟨m, rx, rest, henc, hdec⟩ := encodeTarget_decodes 0xA0 p.1 t
  refine ⟨_, rest, (encode_of_mem_jumpRows p hp t).trans henc, fun w2 hw => ?_⟩
  rw [decodeMap_of_jumpRow (toNat_rowField_modeWord _ _ _ rfl), modeField_modeWord _ _ _ rfl, rxField_modeWord,
    rdField_modeWord, decodeJump, jumpOf_of_mem_jumpRows p hp]
  simp only [hdec w2 hw]
  rfl

theorem mapsBack_call (t : Target) : MapsBack (.call t) := by
  obtain ⟨m, rx, rest, henc, hdec⟩ := encodeTarget_decodes 0xA8 0 t
  refine ⟨_, rest, henc, fun w2 hw => ?_⟩
  rw [decodeMap_of_callRow (toNat_rowField_modeWord _ _ _ rfl), modeField_modeWord _ _ _ rfl, rxField_modeWord,
    rdField_modeWord, decodeCall, hdec w2 hw]
  rfl

theorem mapsBack_st (rd : Reg) (l : Loc) : MapsBack (.st rd l) := by
  obtain ⟨m, rx, rest, henc, hdec⟩ := encodeLoc_decodes rd l
  refine ⟨_, rest, henc, fun w2 hw => ?_⟩
  rw [decodeMap_of_stRow (toNat_rowField_modeWord _ _ _ rfl), modeField_modeWord _ _ _ rfl, rxField_modeWord,
    rdField_modeWord, hdec w2 hw]

theorem mapsBack_ldFlag (rd : Reg) : MapsBack (.ldFlag rd) := by
  refine ⟨modeWord 0x10 4 rd.code 0, [], rfl, fun w2 _ => ?_⟩
  rw [decodeMap_of_stRow (toNat_rowField_modeWord _ _ _ rfl), modeField_modeWord _ _ _ rfl, rxField_modeWord,
    rdField_modeWord]
  simp [decodeStRow, padded]

theorem mapsBack_bare {p : Byte × Instr} (hp : p ∈ bareRows) : MapsBack p.2 := by
  have hrow : ∀ p ∈ bareRows, p.1.toNat / 8 = 0 ∨ 0x18 ≤ p.1.toNat / 8 := by simp [bareRows]
  refine ⟨_, [], encode_of_mem_bareRows p hp, fun w2 _ => ?_⟩
  rw [decodeMap_of_shortRow, opField_firstWord, rdField_firstWord, rxField_firstWord]
  · exact decodeShort_of_mem_bareRows p hp 0 0
  · rw [toNat_rowField, opField_firstWord]
    exact (hrow p hp).imp_left fun h => by rw [h]; decide

theorem mapsBack_reg {p : Byte × (Reg → Instr)} (hp : p ∈ regRows) (rd : Reg) : MapsBack (p.2 rd) := by
  have hrow : ∀ p ∈ regRows, 0x18 ≤ p.1.toNat / 8 := by simp [regRows]
  refine ⟨_, [], encode_of_mem_regRows p hp rd, fun w2 _ => ?_⟩
  rw [decodeMap_of_shortRow, opField_firstWord, rdField_firstWord, rxField_firstWord]
  · simp only [decodeShort_of_mem_regRows p hp, regOf_code]
    rfl
  · rw [toNat_rowField, opField_firstWord]
    exact .inr (hrow p hp)

/-- One line for each row of the table of instructions. -/
theorem mapsBack (i : Instr) : MapsBack i := by
  cases i with
  | ld rd m => exact mapsBack_src (p := (0x08, .ld)) (by simp [srcRows]) rd m
  | add rd m => exact mapsBack_src (p := (0x18, .add)) (by simp [srcRows]) rd m
  | sub rd m => exact mapsBack_src (p := (0x20, .sub)) (by simp [srcRows]) rd m
  | cmp rd m => exact mapsBack_src (p := (0x28, .cmp)) (by simp [srcRows]) rd m
  | and rd m => exact mapsBack_src (p := (0x30, .and)) (by simp [srcRows]) rd m
  | or rd m => exact mapsBack_src (p := (0x38, .or)) (by simp [srcRows]) rd m
  | xor rd m => exact mapsBack_src (p := (0x40, .xor)) (by simp [srcRows]) rd m
  | adds rd m => exact mapsBack_src (p := (0x48, .adds)) (by simp [srcRows]) rd m
  | mul rd m => exact mapsBack_src (p := (0x50, .mul)) (by simp [srcRows]) rd m
  | div rd m => exact mapsBack_src (p := (0x58, .div)) (by simp [srcRows]) rd m
  | mod rd m => exact mapsBack_src (p := (0x60, .mod)) (by simp [srcRows]) rd m
  | mull rd m => exact mapsBack_src (p := (0x68, .mull)) (by simp [srcRows]) rd m
  | divl rd m => exact mapsBack_src (p := (0x70, .divl)) (by simp [srcRows]) rd m
  | shla rd m => exact mapsBack_src (p := (0x80, .shla)) (by simp [srcRows]) rd m
  | shll rd m => exact mapsBack_src (p := (0x88, .shll)) (by simp [srcRows]) rd m
  | shra rd m => exact mapsBack_src (p := (0x90, .shra)) (by simp [srcRows]) rd m
  | shrl rd m => exact mapsBack_src (p := (0x98, .shrl)) (by simp [srcRows]) rd m
  | ldFlag rd => exact mapsBack_ldFlag rd
  | st rd l => exact mapsBack_st rd l
  | jz t => exact mapsBack_jump (p := (0x0, .jz)) (by simp [jumpRows]) t
  | jc t => exact mapsBack_jump (p := (0x1, .jc)) (by simp [jumpRows]) t
  | jm t => exact mapsBack_jump (p := (0x2, .jm)) (by simp [jumpRows]) t
  | jo t => exact mapsBack_jump (p := (0x3, .jo)) (by simp [jumpRows]) t
  | jgt t => exact mapsBack_jump (p := (0x4, .jgt)) (by simp [jumpRows]) t
  | jge t => exact mapsBack_jump (p := (0x5, .jge)) (by simp [jumpRows]) t
  | jle t => exact mapsBack_jump (p := (0x6, .jle)) (by simp [jumpRows]) t
  | jlt t => exact mapsBack_jump (p := (0x7, .jlt)) (by simp [jumpRows]) t
  | jnz t => exact mapsBack_jump (p := (0x8, .jnz)) (by simp [jumpRows]) t
  | jnc t => exact mapsBack_jump (p := (0x9, .jnc)) (by simp [jumpRows]) t
  | jnm t => exact mapsBack_jump (p := (0xA, .jnm)) (by simp [jumpRows]) t
  | jno t => exact mapsBack_jump (p := (0xB, .jno)) (by simp [jumpRows]) t
  | jhi t => exact mapsBack_jump (p := (0xC, .jhi)) (by simp [jumpRows]) t
  | jls t => exact mapsBack_jump (p := (0xE, .jls)) (by simp [jumpRows]) t
  | jmp t => exact mapsBack_jump (p := (0xF, .jmp)) (by simp [jumpRows]) t
  | call t => exact mapsBack_call t
  | inp rd q => exact mapsBack_port (p := (0xB0, .inp)) (by simp [portRows]) rd q
  | out rd q => exact mapsBack_port (p := (0xB8, .out)) (by simp [portRows]) rd q
  | push rd => exact mapsBack_reg (p := (0xC0, .push)) (by simp [regRows]) rd
  | pop rd => exact mapsBack_reg (p := (0xC4, .pop)) (by simp [regRows]) rd
  | no => exact mapsBack_bare (p := (0x00, .no)) (by simp [bareRows])
  | ret => exact mapsBack_bare (p := (0xD0, .ret)) (by simp [bareRows])
  | reti => exact mapsBack_bare (p := (0xD4, .reti)) (by simp [bareRows])
  | ei => exact mapsBack_bare (p := (0xE0, .ei)) (by simp [bareRows])
  | di => exact mapsBack_bare (p := (0xE4, .di)) (by simp [bareRows])
  | svc => exact mapsBack_bare (p := (0xF0, .svc)) (by simp [bareRows])
  | halt => exact mapsBack_bare (p := (0xFF, .halt)) (by simp [bareRows])

/-- Settles O1: the opcode map reads every instruction back from its words, and a well-formed one has no defect. -/
theorem decodeOfEncode : Obligations.DecodeOfEncode := by
  intro i hi
  obtain ⟨w1, rest, henc, hdec⟩ := mapsBack i
  have hdef : i.defect = none := Option.isNone_iff_eq_none.1 hi
  refine ⟨w1, rest, henc, ?length, fun w2 hw => ?decoded⟩
  case length =>
    have hlen := length_encode i
    rw [henc, List.length_cons] at hlen
    omega
  case decoded => rw [decode_of_decodeMap_ok (hdec w2 hw), hdef, Option.elim_none]

/-- Settles O2: an instruction is what the verdict on its first word says. -/
theorem encodeOfDecode : Obligations.EncodeOfDecode := by
  intro w1 w2 i h
  obtain ⟨hx, hw, -⟩ := decode_eq_ok h
  exact ⟨decode_wellFormed h, hx ▸ hw⟩

/-- Settles O3: the number of words after the first is `extraOf`, which reads the first word alone. -/
theorem secondWordFromFirstWord : Obligations.SecondWordFromFirstWord := by
  intro w1 w2 i h
  obtain ⟨hx, -, hlen⟩ := decode_eq_ok h
  rw [hx]
  refine ⟨?_, ?_, hlen⟩
  · unfold extraOf
    split <;> omega
  · unfold extraOf
    split <;> simp_all

/-- Settles O4: the verdict on a first word says which of the two it is. -/
theorem undefinedAndPadWordsExactly : Obligations.UndefinedAndPadWordsExactly :=
  ⟨fun _ _ => decode_eq_undefined_iff, by decide +kernel, fun _ _ => decode_eq_padNonZero_iff⟩

/-- Settles O5: the decoder is run on the fourteen words. -/
theorem sampleWordsDecode : Obligations.SampleWordsDecode :=
  ⟨rfl, rfl, rfl, rfl, rfl, rfl, rfl, rfl, rfl, rfl, rfl, rfl, rfl, rfl⟩

end Sys2Proof
end

section
/-!
PROOF. The arms of `exec`, by kind. Instructions that differ only in what they compute share one outcome, `computes` for
one result register and `computesPair` for two; `kind` sorts every instruction into its kind, so that a statement about
all of them is proved once for each kind. What each kind can come to is said once, in both directions.
-/

namespace Sys2Proof.Machine

/-! ## Two-operand instructions with a result -/

/-- What a two-operand instruction computes: the new Rd, and V, C, S, Z. -/
structure Computed where
  result : Word
  flags : Arith

/-- The common course of the two-operand instructions that write Rd: read the operands, compute `g` of the free values,
the old Rd and the operand, write Rd and the flags. `draws` says whether free values are used up. -/
def computes (rd : Reg) (m : Src) (draws : Bool) (g : FreeValues → Word → Word → Eff Computed) (s : State) : Outcome :=
  settle s <| (operands s rd m).bind fun o => (g s.drawn o.a o.b).bind fun c =>
    .ok (finish (if draws then s.afterDraw else s) o.dst c.result c.flags m)

/-- What DIV and MOD compute. -/
def divided (q : FreeValues → Word → Word → Word) (f : FreeValues) (a b : Word) : Eff Computed :=
  if b = 0 then .raise .zeroDivide else .ok { result := q f a b, flags := mulDivFlags f.flags }

/-- What the shifts compute. -/
def shifted (shift : Word → Nat → Word) (f : FreeValues) (a b : Word) : Eff Computed :=
  if 15 < b.toNat then .refuse .shiftCount
  else .ok { result := shift a b.toNat, flags := shiftFlags (shift a b.toNat) f.flags }

/-- What AND, OR and XOR compute. -/
def combined (op : Word → Word → Word) (f : FreeValues) (a b : Word) : Eff Computed :=
  .ok { result := op a b, flags := logicFlags (op a b) f.flags }

section

variable (rd : Reg) (m : Src) (s : State)

theorem exec_add_eq : exec (.add rd m) s =
    computes rd m false (fun _ a b => .ok { result := a + b, flags := addFlags a b }) s := rfl

theorem exec_sub_eq : exec (.sub rd m) s =
    computes rd m false (fun _ a b => .ok { result := a - b, flags := subFlags a b }) s := rfl

theorem exec_and_eq : exec (.and rd m) s = computes rd m true (combined (· &&& ·)) s := rfl

theorem exec_or_eq : exec (.or rd m) s = computes rd m true (combined (· ||| ·)) s := rfl

theorem exec_xor_eq : exec (.xor rd m) s = computes rd m true (combined (· ^^^ ·)) s := rfl

theorem exec_adds_eq : exec (.adds rd m) s = computes rd m true
    (fun f a b => .ok { result := addsResult a b, flags := addsFlags (addsResult a b) f.flags }) s := rfl

theorem exec_mul_eq : exec (.mul rd m) s = computes rd m true
    (fun f a b => .ok { result := a * b, flags := mulDivFlags f.flags }) s := rfl

/-- A computation that may raise, with the test before or after the bind. -/
theorem divided_bind (q : FreeValues → Word → Word → Word) (o : Operands) :
    ((divided q s.drawn o.a o.b).bind fun c => .ok (finish s.afterDraw o.dst c.result c.flags m)) =
      if o.b = 0 then .raise .zeroDivide
      else .ok (finish s.afterDraw o.dst (q s.drawn o.a o.b) (mulDivFlags s.drawn.flags) m) := by
  unfold divided
  split <;> rfl

theorem shifted_bind (shift : Word → Nat → Word) (o : Operands) :
    ((shifted shift s.drawn o.a o.b).bind fun c => .ok (finish s.afterDraw o.dst c.result c.flags m)) =
      finishShift s o (shift o.a o.b.toNat) m := by
  unfold shifted finishShift
  split <;> rfl

theorem exec_div_eq :
    exec (.div rd m) s = computes rd m true (divided fun f a b => quotient a b f.word) s := by
  simp only [computes, if_true, divided_bind]
  rfl

theorem exec_mod_eq : exec (.mod rd m) s = computes rd m true (divided fun _ a b => remainder a b) s := by
  simp only [computes, if_true, divided_bind]
  rfl

theorem exec_shla_eq : exec (.shla rd m) s = computes rd m true (shifted fun a n => a <<< n) s := by
  simp only [computes, if_true, shifted_bind]
  rfl

theorem exec_shll_eq : exec (.shll rd m) s = computes rd m true (shifted fun a n => a <<< n) s := by
  simp only [computes, if_true, shifted_bind]
  rfl

theorem exec_shra_eq : exec (.shra rd m) s = computes rd m true (shifted fun a n => a.sshiftRight n) s := by
  simp only [computes, if_true, shifted_bind]
  rfl

theorem exec_shrl_eq : exec (.shrl rd m) s = computes rd m true (shifted fun a n => a >>> n) s := by
  simp only [computes, if_true, shifted_bind]
  rfl

end

/-- The thirteen instructions of this course. -/
theorem exists_computes {rd : Reg} {m : Src} {i : Instr}
    (hi : i ∈ [.add rd m, .sub rd m, .and rd m, .or rd m, .xor rd m, .adds rd m, .mul rd m, .div rd m, .mod rd m,
      .shla rd m, .shll rd m, .shra rd m, .shrl rd m]) :
    ∃ draws g, ∀ s, exec i s = computes rd m draws g s := by
  simp only [List.mem_cons, List.not_mem_nil, or_false] at hi
  rcases hi with rfl | rfl | rfl | rfl | rfl | rfl | rfl | rfl | rfl | rfl | rfl | rfl | rfl
  · exact ⟨_, _, exec_add_eq rd m⟩
  · exact ⟨_, _, exec_sub_eq rd m⟩
  · exact ⟨_, _, exec_and_eq rd m⟩
  · exact ⟨_, _, exec_or_eq rd m⟩
  · exact ⟨_, _, exec_xor_eq rd m⟩
  · exact ⟨_, _, exec_adds_eq rd m⟩
  · exact ⟨_, _, exec_mul_eq rd m⟩
  · exact ⟨_, _, exec_div_eq rd m⟩
  · exact ⟨_, _, exec_mod_eq rd m⟩
  · exact ⟨_, _, exec_shla_eq rd m⟩
  · exact ⟨_, _, exec_shll_eq rd m⟩
  · exact ⟨_, _, exec_shra_eq rd m⟩
  · exact ⟨_, _, exec_shrl_eq rd m⟩

/-- An outcome that is a next state is that of a trap, or what was computed. -/
theorem settle_eq_next_or {s t : State} {x : Eff State} (h : settle s x = .next t) : tookTrap s t ∨ x = .ok t := by
  rcases settle_eq_next.1 h with hx | ⟨e, -, he⟩
  · exact .inr hx
  · exact .inl ⟨e, he⟩

section

variable {s t : State} {rd : Reg} {m : Src} {draws : Bool} {g : FreeValues → Word → Word → Eff Computed}

theorem computes_eq_next (h : computes rd m draws g s = .next t) :
    tookTrap s t ∨ ∃ o c, operands s rd m = .ok o ∧ g s.drawn o.a o.b = .ok c ∧
      t = finish (if draws then s.afterDraw else s) o.dst c.result c.flags m := by
  refine (settle_eq_next_or h).imp_right fun hx => ?_
  obtain ⟨o, ho, hx⟩ := Eff.bind_eq_ok.1 hx
  obtain ⟨c, hc, hx⟩ := Eff.bind_eq_ok.1 hx
  exact ⟨o, c, ho, hc, (Eff.ok.inj hx).symm⟩

theorem computes_of_operands {o : Operands} (ho : operands s rd m = .ok o) :
    computes rd m draws g s = settle s ((g s.drawn o.a o.b).bind fun c =>
      .ok (finish (if draws then s.afterDraw else s) o.dst c.result c.flags m)) := by
  rw [computes, ho, Eff.bind_ok]

theorem computes_of_ok {o : Operands} {c : Computed} (ho : operands s rd m = .ok o)
    (hc : g s.drawn o.a o.b = .ok c) : computes rd m draws g s =
      .next (finish (if draws then s.afterDraw else s) o.dst c.result c.flags m) := by
  rw [computes_of_operands ho, hc, Eff.bind_ok, settle_ok]

theorem computes_of_raise {o : Operands} {e : Exc} (ho : operands s rd m = .ok o)
    (he : g s.drawn o.a o.b = .raise e) : computes rd m draws g s = raiseExc s e := by
  rw [computes_of_operands ho, he, Eff.bind_raise, settle_raise]

theorem computes_of_refuse {o : Operands} {r : Refusal} (ho : operands s rd m = .ok o)
    (hr : g s.drawn o.a o.b = .refuse r) : computes rd m draws g s = .refused r := by
  rw [computes_of_operands ho, hr, Eff.bind_refuse, settle_refuse]

theorem computes_of_operand_raise {d : Phys} {e : Exc} (hd : resolve s rd = .ok d) (he : operand s m = .raise e) :
    computes rd m draws g s = raiseExc s e := by
  rw [computes, operands, hd, Eff.bind_ok, he, Eff.bind_raise, Eff.bind_raise, settle_raise]

end

/-! ## MULL and DIVL -/

/-- What MULL or DIVL computes: the new Rd and Rd + 1, and V, C, S, Z. -/
structure ComputedPair where
  lo : Word
  hi : Word
  flags : Arith

/-- The common course of MULL and DIVL: read the operands, compute `g` of the free values, the old Rd + 1, the old Rd
and the operand, write both registers and the flags. -/
def computesPair (rd : Reg) (m : Src) (g : FreeValues → Word → Word → Word → Eff ComputedPair) (s : State) : Outcome :=
  settle s <| (pairOperands s rd m).bind fun o => (g s.drawn o.aHi o.a o.b).bind fun c =>
    .ok (finishPair s.afterDraw o c.lo c.hi c.flags m)

/-- What MULL computes. -/
def multipliedLong (f : FreeValues) (_ a b : Word) : Eff ComputedPair :=
  .ok { lo := (product a b).extractLsb' 0 16, hi := (product a b).extractLsb' 16 16, flags := mulDivFlags f.flags }

/-- What DIVL computes. -/
def dividedLong (f : FreeValues) (aHi a b : Word) : Eff ComputedPair :=
  if b = 0 then .raise .zeroDivide
  else
    match longDivide (dividend aHi a) b with
    | none => .refuse .quotientOverflow
    | some r => .ok { lo := r.quot, hi := r.rem, flags := mulDivFlags f.flags }

theorem exec_mull_eq (rd : Reg) (m : Src) (s : State) :
    exec (.mull rd m) s = computesPair rd m multipliedLong s := rfl

theorem exec_divl_eq (rd : Reg) (m : Src) (s : State) : exec (.divl rd m) s = computesPair rd m dividedLong s := by
  have hbind (o : PairOperands) : ((dividedLong s.drawn o.aHi o.a o.b).bind fun c =>
      .ok (finishPair s.afterDraw o c.lo c.hi c.flags m)) =
        if o.b = 0 then .raise .zeroDivide
        else
          match longDivide (dividend o.aHi o.a) o.b with
          | none => .refuse .quotientOverflow
          | some r => .ok (finishPair s.afterDraw o r.quot r.rem (mulDivFlags s.drawn.flags) m) := by
    unfold dividedLong
    split
    · rfl
    · cases longDivide (dividend o.aHi o.a) o.b <;> rfl
  simp only [computesPair, hbind]
  rfl

section

variable {s t : State} {rd : Reg} {m : Src} {g : FreeValues → Word → Word → Word → Eff ComputedPair}

theorem computesPair_eq_next (h : computesPair rd m g s = .next t) :
    tookTrap s t ∨ ∃ o c, pairOperands s rd m = .ok o ∧ g s.drawn o.aHi o.a o.b = .ok c ∧
      t = finishPair s.afterDraw o c.lo c.hi c.flags m := by
  refine (settle_eq_next_or h).imp_right fun hx => ?_
  obtain ⟨o, ho, hx⟩ := Eff.bind_eq_ok.1 hx
  obtain ⟨c, hc, hx⟩ := Eff.bind_eq_ok.1 hx
  exact ⟨o, c, ho, hc, (Eff.ok.inj hx).symm⟩

theorem computesPair_of_operands {o : PairOperands} (ho : pairOperands s rd m = .ok o) :
    computesPair rd m g s = settle s ((g s.drawn o.aHi o.a o.b).bind fun c =>
      .ok (finishPair s.afterDraw o c.lo c.hi c.flags m)) := by
  rw [computesPair, ho, Eff.bind_ok]

theorem computesPair_of_ok {o : PairOperands} {c : ComputedPair} (ho : pairOperands s rd m = .ok o)
    (hc : g s.drawn o.aHi o.a o.b = .ok c) :
    computesPair rd m g s = .next (finishPair s.afterDraw o c.lo c.hi c.flags m) := by
  rw [computesPair_of_operands ho, hc, Eff.bind_ok, settle_ok]

theorem computesPair_of_raise {o : PairOperands} {e : Exc} (ho : pairOperands s rd m = .ok o)
    (he : g s.drawn o.aHi o.a o.b = .raise e) : computesPair rd m g s = raiseExc s e := by
  rw [computesPair_of_operands ho, he, Eff.bind_raise, settle_raise]

theorem computesPair_of_refuse {o : PairOperands} {r : Refusal} (ho : pairOperands s rd m = .ok o)
    (hr : g s.drawn o.aHi o.a o.b = .refuse r) : computesPair rd m g s = .refused r := by
  rw [computesPair_of_operands ho, hr, Eff.bind_refuse, settle_refuse]

theorem computesPair_of_operand_raise {d : Phys × Phys} {e : Exc} (hd : pairOf rd = .ok d)
    (he : operand s m = .raise e) : computesPair rd m g s = raiseExc s e := by
  rw [computesPair, pairOperands, hd, Eff.bind_ok, he, Eff.bind_raise, Eff.bind_raise, settle_raise]

end

/-! ## The other instructions -/

theorem exec_call_eq (tg : Target) (s : State) : exec (.call tg) s = execCall tg s := rfl

theorem exec_push_eq (rd : Reg) (s : State) : exec (.push rd) s = execPush rd s := rfl

theorem exec_inp_eq (rd : Reg) (p : Port) (s : State) : exec (.inp rd p) s = execInp rd p s := rfl

theorem exec_out_eq (rd : Reg) (p : Port) (s : State) : exec (.out rd p) s = execOut rd p s := rfl

theorem exec_ei_eq (s : State) : exec .ei s = execEi s := rfl

theorem exec_di_eq (s : State) : exec .di s = execDi s := rfl

theorem exec_halt_eq (s : State) : exec .halt s = execHalt s := rfl

theorem exec_svc_eq (s : State) : exec .svc s = raiseExc s .supervisorCall := rfl

theorem checkPriv_reti (s : State) : checkPriv s .reti = .ok () :=
  checkPriv_eq_ok.2 (by simp [forbidden, Config.privSet])

/-- RETI is executed in either mode (46_system.md R192). -/
theorem exec_reti_eq (s : State) : exec .reti s = settle s (returnFromTrap s) := by
  have : exec .reti s = settle s ((checkPriv s .reti).bind fun _ => returnFromTrap s) := rfl
  rw [this, checkPriv_reti, Eff.bind_ok]

theorem exec_ld_eq_next {s t : State} {rd : Reg} {m : Src} (h : exec (.ld rd m) s = .next t) :
    tookTrap s t ∨ ∃ d v, resolve s rd = .ok d ∧ operand s m = .ok v ∧
      t = (s.setReg d v).goto (npc s m.extraWords) := by
  refine (settle_eq_next_or h).imp_right fun hx => ?_
  obtain ⟨d, hd, hx⟩ := Eff.bind_eq_ok.1 hx
  obtain ⟨v, hv, hx⟩ := Eff.bind_eq_ok.1 hx
  exact ⟨d, v, hd, hv, (Eff.ok.inj hx).symm⟩

theorem exec_ldFlag_eq_next {s t : State} {rd : Reg} (h : exec (.ldFlag rd) s = .next t) :
    tookTrap s t ∨ ∃ d, resolve s rd = .ok d ∧ t = (s.setReg d s.flag.toWord).goto (npc s 0) := by
  refine (settle_eq_next_or h).imp_right fun hx => ?_
  obtain ⟨d, hd, hx⟩ := Eff.bind_eq_ok.1 hx
  exact ⟨d, hd, (Eff.ok.inj hx).symm⟩

theorem exec_st_eq_next {s t : State} {rd : Reg} {l : Loc} (h : exec (.st rd l) s = .next t) :
    tookTrap s t ∨ ∃ d mem, resolve s rd = .ok d ∧ writeLoc s l (s.regs.get d) = .ok mem ∧
      t = (s.setMem mem).goto (npc s l.extraWords) := by
  refine (settle_eq_next_or h).imp_right fun hx => ?_
  obtain ⟨v, hv, hx⟩ := Eff.bind_eq_ok.1 hx
  obtain ⟨d, hd, hv⟩ := Eff.bind_eq_ok.1 hv
  obtain ⟨mem, hm, hx⟩ := Eff.bind_eq_ok.1 hx
  exact ⟨d, mem, hd, Eff.ok.inj hv ▸ hm, (Eff.ok.inj hx).symm⟩

theorem exec_cmp_eq_next {s t : State} {rd : Reg} {m : Src} (h : exec (.cmp rd m) s = .next t) :
    tookTrap s t ∨ ∃ o, operands s rd m = .ok o ∧ t = (s.setArith (subFlags o.a o.b)).goto (npc s m.extraWords) := by
  refine (settle_eq_next_or h).imp_right fun hx => ?_
  obtain ⟨o, ho, hx⟩ := Eff.bind_eq_ok.1 hx
  exact ⟨o, ho, (Eff.ok.inj hx).symm⟩

/-- No register access of a jump can raise, so a jump takes no trap (44_jump_call.md R160). -/
theorem locAddr_ne_raise (s : State) (l : Loc) (e : Exc) : locAddr s l ≠ .raise e := by
  have hreg (rx : Reg) : readReg s rx ≠ .raise e := by cases rx <;> simp [readReg, resolve]
  cases l with
  | direct dsp => simp [locAddr]
  | indexed dsp rx => simp [locAddr, Eff.bind_eq_raise, hreg]
  | fpRel d4 => simp [locAddr]
  | indirect rx => exact hreg rx
  | byteIndirect rx => exact hreg rx

theorem targetAddr_ne_raise (s : State) (tg : Target) (e : Exc) : targetAddr s tg ≠ .raise e := by
  cases tg with
  | direct dsp => exact locAddr_ne_raise s (.direct dsp) e
  | indexed dsp rx => exact locAddr_ne_raise s (.indexed dsp rx) e
  | indirect rx => exact locAddr_ne_raise s (.indirect rx) e

theorem jumpWhen_eq_next {s t : State} {tg : Target} {taken : Bool} (h : jumpWhen taken tg s = .next t) :
    ∃ a, targetAddr s tg = .ok a ∧ t = s.goto (if taken then a else npc s tg.extraWords) := by
  rcases settle_eq_next.1 h with hx | ⟨e, hx, -⟩
  · obtain ⟨a, ha, hx⟩ := Eff.bind_eq_ok.1 hx
    exact ⟨a, ha, (Eff.ok.inj hx).symm⟩
  · simp [Eff.bind_eq_raise, targetAddr_ne_raise] at hx

theorem exec_call_eq_next {s t : State} {tg : Target} (h : exec (.call tg) s = .next t) :
    tookTrap s t ∨ ∃ a u, targetAddr s tg = .ok a ∧ push s (npc s tg.extraWords) = .ok u ∧ t = u.goto a := by
  refine (settle_eq_next_or h).imp_right fun hx => ?_
  obtain ⟨a, ha, hx⟩ := Eff.bind_eq_ok.1 hx
  obtain ⟨u, hu, hx⟩ := Eff.bind_eq_ok.1 hx
  exact ⟨a, u, ha, hu, (Eff.ok.inj hx).symm⟩

theorem exec_push_eq_next {s t : State} {rd : Reg} (h : exec (.push rd) s = .next t) :
    tookTrap s t ∨ ∃ d u, resolve s rd = .ok d ∧ push s (s.regs.get d) = .ok u ∧ t = u.goto (npc s 0) := by
  refine (settle_eq_next_or h).imp_right fun hx => ?_
  obtain ⟨v, hv, hx⟩ := Eff.bind_eq_ok.1 hx
  obtain ⟨d, hd, hv⟩ := Eff.bind_eq_ok.1 hv
  obtain ⟨u, hu, hx⟩ := Eff.bind_eq_ok.1 hx
  exact ⟨d, u, hd, Eff.ok.inj hv ▸ hu, (Eff.ok.inj hx).symm⟩

theorem exec_pop_eq_next {s t : State} {rd : Reg} (h : exec (.pop rd) s = .next t) :
    tookTrap s t ∨ ∃ d r, resolve s rd = .ok d ∧ pop s = .ok r ∧ t = (r.2.setReg d r.1).goto (npc s 0) := by
  refine (settle_eq_next_or h).imp_right fun hx => ?_
  obtain ⟨d, hd, hx⟩ := Eff.bind_eq_ok.1 hx
  obtain ⟨r, hr, hx⟩ := Eff.bind_eq_ok.1 hx
  exact ⟨d, r, hd, hr, (Eff.ok.inj hx).symm⟩

theorem exec_ret_eq_next {s t : State} (h : exec .ret s = .next t) :
    tookTrap s t ∨ ∃ r, pop s = .ok r ∧ t = r.2.goto r.1 := by
  refine (settle_eq_next_or h).imp_right fun hx => ?_
  obtain ⟨r, hr, hx⟩ := Eff.bind_eq_ok.1 hx
  exact ⟨r, hr, (Eff.ok.inj hx).symm⟩

theorem exec_reti_eq_next {s t : State} (h : exec .reti s = .next t) : tookTrap s t ∨ returnFromTrap s = .ok t :=
  settle_eq_next_or (exec_reti_eq s ▸ h)

/-! ## The privileged instructions -/

/-- PRIV_SET without RETI, at its default (60_exceptions.md R231). -/
theorem forbidden_eq {s : State} {i : PrivInstr} (hi : i ≠ .reti) : forbidden s i = !s.flag.p := by
  cases i <;> simp_all [forbidden, Config.privSet]

theorem checkPriv_of_priv {s : State} (hp : s.flag.p = true) (i : PrivInstr) : checkPriv s i = .ok () :=
  checkPriv_eq_ok.2 (by simp [forbidden, hp])

theorem checkPriv_of_user {s : State} {i : PrivInstr} (hi : i ≠ .reti) (hp : s.flag.p = false) :
    checkPriv s i = .raise .privilegeViolation := by
  rw [checkPriv, forbidden_eq hi, hp]
  rfl

/-- A privileged instruction that leads to a next state has taken a trap, or was executed in privileged mode. -/
theorem settle_checkPriv_eq_next {s t : State} {i : PrivInstr} {x : Eff State} (hi : i ≠ .reti)
    (h : settle s ((checkPriv s i).bind fun _ => x) = .next t) : tookTrap s t ∨ (s.flag.p = true ∧ x = .ok t) := by
  refine (settle_eq_next_or h).imp_right fun hx => ?_
  obtain ⟨u, hu, hx⟩ := Eff.bind_eq_ok.1 hx
  have := checkPriv_eq_ok.1 hu
  rw [forbidden_eq hi] at this
  exact ⟨by simpa using this, hx⟩

theorem exec_inp_eq_next {s t : State} {rd : Reg} {p : Port} (h : exec (.inp rd p) s = .next t) :
    tookTrap s t ∨ s.flag.p = true ∧ ∃ d a, resolve s rd = .ok d ∧ portAddr s p = .ok a ∧
      t = ((ioReadState s a (Port.width p)).setReg d (ioReadValue s a (Port.width p))).goto (npc s p.extraWords) := by
  refine (settle_checkPriv_eq_next (by decide) h).imp_right fun ⟨hp, hx⟩ => ⟨hp, ?_⟩
  obtain ⟨d, hd, hx⟩ := Eff.bind_eq_ok.1 hx
  obtain ⟨a, ha, hx⟩ := Eff.bind_eq_ok.1 hx
  exact ⟨d, a, hd, ha, (Eff.ok.inj hx).symm⟩

theorem exec_out_eq_next {s t : State} {rd : Reg} {p : Port} (h : exec (.out rd p) s = .next t) :
    tookTrap s t ∨ s.flag.p = true ∧ ∃ a v u, portAddr s p = .ok a ∧ ioWrite s a (Port.width p) v = .ok u ∧
      t = u.goto (npc s p.extraWords) := by
  refine (settle_checkPriv_eq_next (by decide) h).imp_right fun ⟨hp, hx⟩ => ⟨hp, ?_⟩
  obtain ⟨v, -, hx⟩ := Eff.bind_eq_ok.1 hx
  obtain ⟨a, ha, hx⟩ := Eff.bind_eq_ok.1 hx
  obtain ⟨u, hu, hx⟩ := Eff.bind_eq_ok.1 hx
  exact ⟨a, v, u, ha, hu, (Eff.ok.inj hx).symm⟩

theorem exec_ei_eq_next {s t : State} (h : exec .ei s = .next t) :
    tookTrap s t ∨ s.flag.p = true ∧ t = (s.setE true).goto (npc s 0) :=
  (settle_checkPriv_eq_next (by decide) h).imp_right fun ⟨hp, hx⟩ => ⟨hp, (Eff.ok.inj hx).symm⟩

theorem exec_di_eq_next {s t : State} (h : exec .di s = .next t) :
    tookTrap s t ∨ s.flag.p = true ∧ t = (s.setE false).goto (npc s 0) :=
  (settle_checkPriv_eq_next (by decide) h).imp_right fun ⟨hp, hx⟩ => ⟨hp, (Eff.ok.inj hx).symm⟩

theorem exec_halt_eq_next {s t : State} (h : exec .halt s = .next t) :
    tookTrap s t ∨ s.flag.p = true ∧ t = (s.setHalted true).goto (npc s 0) :=
  (settle_checkPriv_eq_next (by decide) h).imp_right fun ⟨hp, hx⟩ => ⟨hp, (Eff.ok.inj hx).symm⟩

/-! ## Every instruction is of one of these kinds -/

/-- The kinds of instructions. -/
inductive Kind : Instr → Prop
  | computes {i : Instr} (rd : Reg) (m : Src) (draws : Bool) (g : FreeValues → Word → Word → Eff Computed)
      (h : ∀ s, exec i s = computes rd m draws g s) : Kind i
  | computesPair {i : Instr} (rd : Reg) (m : Src) (g : FreeValues → Word → Word → Word → Eff ComputedPair)
      (h : ∀ s, exec i s = computesPair rd m g s) : Kind i
  | jump {i : Instr} (cond : Flag → Bool) (tg : Target) (h : ∀ s, exec i s = jumpWhen (cond s.flag) tg s) : Kind i
  | no : Kind .no
  | ld (rd : Reg) (m : Src) : Kind (.ld rd m)
  | ldFlag (rd : Reg) : Kind (.ldFlag rd)
  | st (rd : Reg) (l : Loc) : Kind (.st rd l)
  | cmp (rd : Reg) (m : Src) : Kind (.cmp rd m)
  | call (tg : Target) : Kind (.call tg)
  | push (rd : Reg) : Kind (.push rd)
  | pop (rd : Reg) : Kind (.pop rd)
  | ret : Kind .ret
  | reti : Kind .reti
  | svc : Kind .svc
  | inp (rd : Reg) (p : Port) : Kind (.inp rd p)
  | out (rd : Reg) (p : Port) : Kind (.out rd p)
  | ei : Kind .ei
  | di : Kind .di
  | halt : Kind .halt

theorem kind (i : Instr) : Kind i := by
  cases i with
  | no => exact .no
  | ld rd m => exact .ld rd m
  | ldFlag rd => exact .ldFlag rd
  | st rd l => exact .st rd l
  | add rd m => exact .computes _ _ _ _ (exec_add_eq rd m)
  | sub rd m => exact .computes _ _ _ _ (exec_sub_eq rd m)
  | cmp rd m => exact .cmp rd m
  | and rd m => exact .computes _ _ _ _ (exec_and_eq rd m)
  | or rd m => exact .computes _ _ _ _ (exec_or_eq rd m)
  | xor rd m => exact .computes _ _ _ _ (exec_xor_eq rd m)
  | adds rd m => exact .computes _ _ _ _ (exec_adds_eq rd m)
  | mul rd m => exact .computes _ _ _ _ (exec_mul_eq rd m)
  | div rd m => exact .computes _ _ _ _ (exec_div_eq rd m)
  | mod rd m => exact .computes _ _ _ _ (exec_mod_eq rd m)
  | mull rd m => exact .computesPair _ _ _ (exec_mull_eq rd m)
  | divl rd m => exact .computesPair _ _ _ (exec_divl_eq rd m)
  | shla rd m => exact .computes _ _ _ _ (exec_shla_eq rd m)
  | shll rd m => exact .computes _ _ _ _ (exec_shll_eq rd m)
  | shra rd m => exact .computes _ _ _ _ (exec_shra_eq rd m)
  | shrl rd m => exact .computes _ _ _ _ (exec_shrl_eq rd m)
  | jz t => exact .jump condZ t (exec_jz_eq t)
  | jc t => exact .jump condC t (exec_jc_eq t)
  | jm t => exact .jump condM t (exec_jm_eq t)
  | jo t => exact .jump condO t (exec_jo_eq t)
  | jgt t => exact .jump condGt t (exec_jgt_eq t)
  | jge t => exact .jump condGe t (exec_jge_eq t)
  | jle t => exact .jump condLe t (exec_jle_eq t)
  | jlt t => exact .jump condLt t (exec_jlt_eq t)
  | jnz t => exact .jump condNz t (exec_jnz_eq t)
  | jnc t => exact .jump condNc t (exec_jnc_eq t)
  | jnm t => exact .jump condNm t (exec_jnm_eq t)
  | jno t => exact .jump condNo t (exec_jno_eq t)
  | jhi t => exact .jump condHi t (exec_jhi_eq t)
  | jls t => exact .jump condLs t (exec_jls_eq t)
  | jmp t => exact .jump (fun _ => true) t (exec_jmp_eq t)
  | call t => exact .call t
  | inp rd p => exact .inp rd p
  | out rd p => exact .out rd p
  | push rd => exact .push rd
  | pop rd => exact .pop rd
  | ret => exact .ret
  | reti => exact .reti
  | ei => exact .ei
  | di => exact .di
  | svc => exact .svc
  | halt => exact .halt

end Sys2Proof.Machine
end

section
/-!
PROOF. Frames: what each kind of instruction leaves unchanged. What the ends of the kinds keep is said once; each frame
is then the inversion of its kind and that lemma.
-/

namespace Sys2Proof.Machine

/-! ## What the ends of the kinds keep -/

theorem State.sameRegsBut_refl (s : State) (ds : List Phys) : s.sameRegsBut s ds := fun _ _ => rfl

theorem State.sameMemory_refl (s : State) : s.sameMemory s := fun _ => rfl

theorem State.sameIo_refl (s : State) : s.sameIo s := ⟨⟨rfl, rfl, rfl⟩, rfl, rfl⟩

theorem State.sameRequests_refl (s : State) : s.sameRequests s := ⟨rfl, rfl, rfl⟩

theorem State.sameSystem_refl (s : State) : s.sameSystem s := ⟨⟨rfl, rfl⟩, s.sameIo_refl, s.sameRequests_refl⟩

theorem finish_changesOnly (s : State) (draws : Bool) (d : Phys) (r : Word) (f : Arith) (m : Src) :
    s.changesOnly (finish (if draws then s.afterDraw else s) d r f m) [d] := by
  cases draws <;> exact ⟨s.sameRegsBut_setReg d r, s.sameMemory_refl, s.sameSystem_refl⟩

theorem finishPair_changesOnly (s : State) (o : PairOperands) (lo hi : Word) (f : Arith) (m : Src) :
    s.changesOnly (finishPair s.afterDraw o lo hi f m) [o.lo, o.hi] := by
  refine ⟨fun q hq => ?_, s.sameMemory_refl, s.sameSystem_refl⟩
  obtain ⟨hlo, hhi⟩ : q ≠ o.lo ∧ q ≠ o.hi := by simpa using hq
  exact (Regs.get_set_of_ne _ _ _ _ hhi).trans (Regs.get_set_of_ne _ _ _ _ hlo)

theorem namedReg_of_resolve {s : State} {rd : Reg} {d : Phys} (hd : resolve s rd = .ok d) :
    namedReg (resolve s rd) = [d] := by
  rw [hd, namedReg]

theorem namedPair_of_pairOf {rd : Reg} {lo hi : Phys} (hd : pairOf rd = .ok (lo, hi)) :
    namedPair (pairOf rd) = [lo, hi] := by
  rw [hd, namedPair]

theorem computes_frame {s t : State} {rd : Reg} {m : Src} {draws : Bool} {g : FreeValues → Word → Word → Eff Computed}
    (h : computes rd m draws g s = .next t) : tookTrap s t ∨ s.changesOnly t (namedReg (resolve s rd)) := by
  refine (computes_eq_next h).imp_right ?_
  rintro ⟨o, c, ho, -, rfl⟩
  rw [namedReg_of_resolve (operands_eq_ok.1 ho).1]
  exact finish_changesOnly s draws o.dst c.result c.flags m

theorem computesPair_frame {s t : State} {rd : Reg} {m : Src} {g : FreeValues → Word → Word → Word → Eff ComputedPair}
    (h : computesPair rd m g s = .next t) : tookTrap s t ∨ s.changesOnly t (namedPair (pairOf rd)) := by
  refine (computesPair_eq_next h).imp_right ?_
  rintro ⟨o, c, ho, -, rfl⟩
  rw [namedPair_of_pairOf (pairOperands_eq_ok.1 ho).1]
  exact finishPair_changesOnly s o c.lo c.hi c.flags m

/-- A jump changes PC alone (44_jump_call.md R160). -/
theorem jumpWhen_frame {s t : State} {tg : Target} {taken : Bool} (h : jumpWhen taken tg s = .next t) :
    s.keepsFlag t [] := by
  obtain ⟨a, -, rfl⟩ := jumpWhen_eq_next h
  exact s.keepsFlag_goto _

theorem exec_ld_frame {s t : State} {rd : Reg} {m : Src} (h : exec (.ld rd m) s = .next t) :
    tookTrap s t ∨ s.keepsFlag t (namedReg (resolve s rd)) := by
  refine (exec_ld_eq_next h).imp_right ?_
  rintro ⟨d, v, hd, -, rfl⟩
  rw [namedReg_of_resolve hd]
  exact s.keepsFlag_setReg_goto d v _

theorem exec_ldFlag_frame {s t : State} {rd : Reg} (h : exec (.ldFlag rd) s = .next t) :
    tookTrap s t ∨ s.keepsFlag t (namedReg (resolve s rd)) := by
  refine (exec_ldFlag_eq_next h).imp_right ?_
  rintro ⟨d, hd, rfl⟩
  rw [namedReg_of_resolve hd]
  exact s.keepsFlag_setReg_goto d _ _

theorem exec_cmp_frame {s t : State} {rd : Reg} {m : Src} (h : exec (.cmp rd m) s = .next t) :
    tookTrap s t ∨ s.changesOnly t [] := by
  refine (exec_cmp_eq_next h).imp_right ?_
  rintro ⟨o, -, rfl⟩
  exact s.changesOnly_setArith_goto _ _

/-! ## The stack -/

/-- A push changes SP and memory only (20_memory.md R57). -/
theorem push_keeps {s u : State} {x : Word} (h : push s x = .ok u) (a : Word) :
    s.sameArith (u.goto a) ∧ s.sameSystem (u.goto a) ∧ s.sameRegsBut (u.goto a) [spOf s] ∧
      ∀ n, ¬inWord (s.regs.get (spOf s) - 2) n → (u.goto a).mem.read n = s.mem.read n := by
  obtain ⟨mem, hm, rfl⟩ := push_eq_ok.1 h
  obtain ⟨-, -, -, rfl⟩ := writeWord_eq_ok.1 hm
  exact ⟨⟨rfl, rfl, rfl, rfl⟩, s.sameSystem_refl, s.sameRegsBut_setReg _ _,
    fun n hn => read_storeWord_of_not_inWord s.mem x hn⟩

theorem exec_ret_frame {s t : State} (h : exec .ret s = .next t) : tookTrap s t ∨ s.keepsFlag t [spOf s] := by
  refine (exec_ret_eq_next h).imp_right ?_
  rintro ⟨r, hr, rfl⟩
  rw [(pop_eq_ok.1 hr).2]
  exact s.keepsFlag_setReg_goto _ _ _

theorem exec_pop_frame {s t : State} {rd : Reg} (h : exec (.pop rd) s = .next t) :
    tookTrap s t ∨ ∃ d, resolve s rd = .ok d ∧ s.keepsFlag t [d, spOf s] := by
  refine (exec_pop_eq_next h).imp_right ?_
  rintro ⟨d, r, hd, hr, rfl⟩
  rw [(pop_eq_ok.1 hr).2]
  exact ⟨d, hd, s.keepsFlag_setReg_setReg_goto _ d _ _ _⟩

/-- In user mode RETI keeps E and P (46_system.md R192). -/
theorem flagAfterReti_of_user {f : Flag} (hp : f.p = false) (w : Word) :
    flagAfterReti f w = { flagOfWord w with e := f.e, p := f.p } := by
  rw [flagAfterReti, if_neg (by simp [hp])]

theorem flagAfterReti_of_priv {f : Flag} (hp : f.p = true) (w : Word) : flagAfterReti f w = flagOfWord w := by
  rw [flagAfterReti, if_pos hp]

theorem returnFromTrap_frame {s t : State} (h : returnFromTrap s = .ok t) :
    s.sameRegsBut t [spOf s] ∧ t.mem = s.mem ∧ s.sameIo t ∧ s.sameRequests t ∧
      (s.flag.p = false → s.sameMode t) := by
  obtain ⟨f, x, -, -, rfl⟩ := returnFromTrap_eq_ok.1 h
  refine ⟨s.sameRegsBut_setReg _ _, rfl, s.sameIo_refl, s.sameRequests_refl, fun hp => ?_⟩
  rw [State.sameMode, State.goto_flag, State.setFlag_flag, flagAfterReti_of_user hp]
  exact ⟨rfl, rfl⟩

/-! ## Well-formed register fields -/

theorem wellFormed_iff {i : Instr} :
    i.wellFormed = true ↔ .pc ∉ i.regs ∧ ∀ r, i.pairReg = some r → r.startsPair = true := by
  rw [Instr.wellFormed, Instr.defect]
  by_cases hr : .pc ∈ i.regs
  · simp [hr]
  · cases hp : i.pairReg with
    | none => simp [hr]
    | some r => cases hs : r.startsPair <;> simp [hr, hs]

theorem exists_resolve (s : State) {r : Reg} (h : r ≠ .pc) : ∃ d, resolve s r = .ok d := by
  cases r with
  | pc => exact absurd rfl h
  | _ => exact ⟨_, rfl⟩

theorem exists_pairOf {r : Reg} (h : r.startsPair = true) : ∃ d, pairOf r = .ok d := by
  cases r <;> simp [Reg.startsPair] at h <;> exact ⟨_, rfl⟩

/-! ## Input and output -/

theorem ioReadState_frame (s : State) (a : Byte) (w : Width) (d : Phys) (x y : Word) :
    let t := ((ioReadState s a w).setReg d x).goto y
    s.sameRegsBut t [d] ∧ t.mem = s.mem ∧ t.flag = s.flag ∧ s.sameRequests t ∧ s.sameLimits t ∧
      t.outputs = s.outputs ∧ t.dev.mode = s.dev.mode ∧ irqEnables t.dev = irqEnables s.dev :=
  ⟨s.sameRegsBut_setReg d x, rfl, rfl, s.sameRequests_refl, ⟨rfl, rfl, rfl⟩, rfl, latchIn_mode ..,
    irqEnables_latchIn ..⟩

theorem ioWrite_frame {s u : State} {a : Byte} {w : Width} {v : Word} (h : ioWrite s a w v = .ok u) :
    u.regs = s.regs ∧ u.mem = s.mem ∧ u.flag = s.flag ∧ s.sameRequests u ∧ u.protectRule = s.protectRule ∧
      u.dev.mode = s.dev.mode ∧ u.outputs = s.outputs ++ [ioRecord a w v] := by
  rcases ioWrite_eq_ok h with ⟨rfl, -⟩ | ⟨rfl, -⟩ | ⟨rfl, -⟩
  · exact ⟨rfl, rfl, rfl, s.sameRequests_refl, rfl, rfl, rfl⟩
  · exact ⟨rfl, rfl, rfl, s.sameRequests_refl, rfl, rfl, rfl⟩
  · exact ⟨rfl, rfl, rfl, s.sameRequests_refl, rfl, devWrite_mode .., rfl⟩

end Sys2Proof.Machine

namespace Sys2Proof

open Sys2Proof.Machine

/-- Settles O49: each instruction is of a kind whose end keeps everything but what the statement names. -/
theorem registerInstructionFrame : Obligations.RegisterInstructionFrame := by
  intro s t rd m i h
  refine ⟨fun hi => ?moves, fun hi => ?results, fun hi => ?pairs, ?compare⟩
  case moves =>
    simp only [List.mem_cons, List.not_mem_nil, or_false] at hi
    rcases hi with rfl | rfl
    · exact exec_ld_frame h
    · exact exec_ldFlag_frame h
  case results =>
    obtain ⟨draws, g, hg⟩ := exists_computes hi
    exact computes_frame (hg s ▸ h)
  case pairs =>
    simp only [List.mem_cons, List.not_mem_nil, or_false] at hi
    rcases hi with rfl | rfl
    · exact computesPair_frame (exec_mull_eq rd m s ▸ h)
    · exact computesPair_frame (exec_divl_eq rd m s ▸ h)
  case compare =>
    rintro rfl
    exact exec_cmp_frame h

/-- Settles O50: a jump changes PC alone, the system instructions what their equations write. -/
theorem controlInstructionFrame : Obligations.ControlInstructionFrame := by
  intro s t tg i h
  refine ⟨fun hi => ?jumps, ?ret, ?reti, fun hi => ?enable, ?halt, ?svc⟩
  case jumps =>
    simp only [List.mem_cons, List.not_mem_nil, or_false] at hi
    rcases hi with rfl | hi
    · cases exec_no s ▸ h
      exact s.keepsFlag_goto _
    · have hjump : ∃ taken, exec i s = jumpWhen taken tg s := by
        rcases hi with rfl | rfl | rfl | rfl | rfl | rfl | rfl | rfl | rfl | rfl | rfl | rfl | rfl | rfl | rfl <;>
          exact ⟨_, rfl⟩
      obtain ⟨taken, hj⟩ := hjump
      exact jumpWhen_frame (hj ▸ h)
  case ret =>
    rintro rfl
    exact exec_ret_frame h
  case reti =>
    rintro rfl
    refine (exec_reti_eq_next h).imp_right fun hr => ?_
    obtain ⟨hregs, hmem, hio, hreq, hmode⟩ := returnFromTrap_frame hr
    exact ⟨hregs, fun n => by rw [hmem], hio, hreq, hmode⟩
  case enable =>
    have keeps (b : Bool) : s.sameRegsBut ((s.setE b).goto (npc s 0)) [] ∧ s.sameMemory ((s.setE b).goto (npc s 0)) ∧
        s.sameArith ((s.setE b).goto (npc s 0)) ∧ ((s.setE b).goto (npc s 0)).flag.p = s.flag.p ∧
        s.sameIo ((s.setE b).goto (npc s 0)) ∧ s.sameRequests ((s.setE b).goto (npc s 0)) :=
      ⟨s.sameRegsBut_refl [], s.sameMemory_refl, ⟨rfl, rfl, rfl, rfl⟩, rfl, s.sameIo_refl, s.sameRequests_refl⟩
    simp only [List.mem_cons, List.not_mem_nil, or_false] at hi
    rcases hi with rfl | rfl
    · refine (exec_ei_eq_next h).imp_right ?_
      rintro ⟨-, rfl⟩
      exact keeps true
    · refine (exec_di_eq_next h).imp_right ?_
      rintro ⟨-, rfl⟩
      exact keeps false
  case halt =>
    rintro rfl
    refine (exec_halt_eq_next h).imp_right ?_
    rintro ⟨-, rfl⟩
    exact ⟨s.sameRegsBut_refl [], s.sameMemory_refl, rfl, s.sameIo_refl, rfl, rfl⟩
  case svc =>
    rintro rfl
    exact ⟨.supervisorCall, h⟩

/-- Settles O51: a store writes the bytes of its address, a push the word below SP, POP two registers. -/
theorem storeAndStackFrame : Obligations.StoreAndStackFrame := by
  intro s t rd l tg i h system
  refine ⟨?st, fun hi => ?push, ?pop⟩
  case st =>
    rintro rfl
    refine (exec_st_eq_next h).imp_right ?_
    rintro ⟨d, mem, -, hm, rfl⟩
    obtain ⟨hregs, harith, hsys⟩ := s.setMem_goto_keeps mem (npc s l.extraWords)
    refine ⟨⟨harith, hsys⟩, hregs, fun a ha n hn => ?_⟩
    cases hw : Loc.width l with
    | word =>
      rw [writeLoc_of_word ha hw] at hm
      obtain ⟨-, -, -, rfl⟩ := writeWord_eq_ok.1 hm
      rw [hw] at hn
      exact read_storeWord_of_not_inWord s.mem _ hn
    | byte =>
      rw [writeLoc_of_byte ha hw] at hm
      obtain ⟨-, -, rfl⟩ := writeByte_eq_ok.1 hm
      rw [hw] at hn
      exact Memory.read_write_of_ne s.mem _ hn
  case push =>
    simp only [List.mem_cons, List.not_mem_nil, or_false] at hi
    rcases hi with rfl | rfl
    · refine (exec_push_eq_next h).imp_right ?_
      rintro ⟨d, u, -, hu, rfl⟩
      obtain ⟨harith, hsys, hregs, hmem⟩ := push_keeps hu (npc s 0)
      exact ⟨⟨harith, hsys⟩, hregs, hmem⟩
    · refine (exec_call_eq_next h).imp_right ?_
      rintro ⟨a, u, -, hu, rfl⟩
      obtain ⟨harith, hsys, hregs, hmem⟩ := push_keeps hu a
      exact ⟨⟨harith, hsys⟩, hregs, hmem⟩
  case pop =>
    rintro rfl
    refine (exec_pop_frame h).imp_right ?_
    rintro ⟨d, hd, ⟨hregs, hmem, hsys⟩, harith⟩
    refine ⟨⟨harith, hsys⟩, fun q hq => hregs q fun hmem => hq ?_, hmem⟩
    rw [namedReg_of_resolve hd]
    simpa [or_comm] using hmem

/-- Settles O52: IN latches device registers and writes Rd, OUT records and writes a limit or a device register. -/
theorem inputOutputFrame : Obligations.InputOutputFrame := by
  intro s t rd p
  refine ⟨fun h => (exec_inp_eq_next h).imp_right ?inp, fun h => (exec_out_eq_next h).imp_right ?out⟩
  case inp =>
    rintro ⟨-, d, a, hd, -, rfl⟩
    obtain ⟨hregs, hmem, hflag, hreq, hlim, hout, hmode, -⟩ :=
      ioReadState_frame s a (Port.width p) d (ioReadValue s a (Port.width p)) (npc s p.extraWords)
    rw [namedReg_of_resolve hd]
    exact ⟨hregs, fun n => by rw [hmem], hflag, hreq, hlim, hout, hmode⟩
  case out =>
    rintro ⟨-, a, v, u, -, hu, rfl⟩
    obtain ⟨hregs, hmem, hflag, hreq, hrule, hmode, -⟩ := ioWrite_frame hu
    exact ⟨fun q _ => congrArg (·.get q) hregs, fun n => congrArg (·.read n) hmem, hflag, hreq, hrule, hmode⟩

/-- Settles O15: an operand that raises is read before the instruction does anything else. -/
theorem operandExceptionIsTaken : Obligations.OperandExceptionIsTaken := by
  intro s rd m e i hi hwf he
  obtain ⟨hregs, hpair⟩ := wellFormed_iff.1 hwf
  have hrd : i.regs = rd :: m.regs := by
    simp only [List.mem_cons, List.not_mem_nil, or_false] at hi
    rcases hi with rfl | rfl | rfl | rfl | rfl | rfl | rfl | rfl | rfl | rfl | rfl | rfl | rfl | rfl | rfl | rfl |
      rfl <;>
      rfl
  obtain ⟨d, hd⟩ := exists_resolve s (fun h => hregs (by rw [hrd, h]; exact List.mem_cons_self) : rd ≠ .pc)
  by_cases hcomp : i ∈ [.add rd m, .sub rd m, .and rd m, .or rd m, .xor rd m, .adds rd m, .mul rd m, .div rd m,
      .mod rd m, .shla rd m, .shll rd m, .shra rd m, .shrl rd m]
  · obtain ⟨draws, g, hg⟩ := exists_computes hcomp
    rw [hg, computes_of_operand_raise hd he]
  · have hrest : i = .ld rd m ∨ i = .cmp rd m ∨ i = .mull rd m ∨ i = .divl rd m := by
      simp only [List.mem_cons, List.not_mem_nil, or_false] at hi hcomp
      tauto
    rcases hrest with rfl | rfl | rfl | rfl
    · exact exec_ld_of_operand_raise hd he
    · rw [exec_cmp_eq, execCmp, operands, hd, Eff.bind_ok, he, Eff.bind_raise, Eff.bind_raise, settle_raise]
    · obtain ⟨q, hq⟩ := exists_pairOf (hpair rd rfl)
      rw [exec_mull_eq, computesPair_of_operand_raise hq he]
    · obtain ⟨q, hq⟩ := exists_pairOf (hpair rd rfl)
      rw [exec_divl_eq, computesPair_of_operand_raise hq he]

/-- Settles O48: each of the five instructions checks its privilege first. -/
theorem privilegedInUserModeTraps : Obligations.PrivilegedInUserModeTraps := by
  intro s rd p hp i hi
  have raises {q : PrivInstr} {x : Eff State} (hq : q ≠ .reti) :
      settle s ((checkPriv s q).bind fun _ => x) = raiseExc s .privilegeViolation := by
    rw [checkPriv_of_user hq hp, Eff.bind_raise, settle_raise]
  simp only [List.mem_cons, List.not_mem_nil, or_false] at hi
  rcases hi with rfl | rfl | rfl | rfl | rfl
  · exact raises (q := .inp) (by decide)
  · exact raises (q := .out) (by decide)
  · exact raises (q := .ei) (by decide)
  · exact raises (q := .di) (by decide)
  · exact raises (q := .halt) (by decide)

end Sys2Proof
end

section
/-!
PROOF. What a step can do to memory, to the mode and to the history. An instruction that takes no trap has kept memory
and the system part of the state, made one store, returned by RETI, or was executed in privileged mode (`Completes`); a
step is an interrupt, a trap, an idle step, or such an instruction (`step_eq_next`). Each invariant is these two case
splits.
-/

namespace Sys2Proof.Machine

/-! ## What an instruction that takes no trap does -/

/-- A memory that one store of the state can leave. -/
def State.Stored (s : State) (m : Memory) : Prop :=
  (∃ a x, writeWord s a x = .ok m) ∨ ∃ a x, writeByte s a x = .ok m

/-- In user mode the system stack pointer is the same. -/
def State.keepsSsp (s t : State) : Prop := s.flag.p = false → t.regs.ssp = s.regs.ssp

/-- What an instruction that takes no trap does, as the invariants see it. -/
inductive Completes (i : Instr) (s t : State) : Prop
  | keeps (hmem : t.mem = s.mem) (hsys : s.sameSystem t) (hssp : s.keepsSsp t)
  | stores (hmem : s.Stored t.mem) (hsys : s.sameSystem t) (hssp : s.keepsSsp t)
  | returns (hi : i = .reti) (h : returnFromTrap s = .ok t)
  | privileged (hp : s.flag.p = true) (hp' : t.flag.p = true) (hmem : t.mem = s.mem)
      (hout : ∃ l : List IoWrite, t.outputs = s.outputs ++ l ∧ l.length ≤ 1)

theorem spOf_of_user {s : State} (hp : s.flag.p = false) : spOf s = .usp := by
  rw [spOf, if_neg (by simp [hp])]

theorem spOf_of_priv {s : State} (hp : s.flag.p = true) : spOf s = .ssp := by
  rw [spOf, if_pos hp]

theorem keepsSsp_of_sameRegsBut {s t : State} {ds : List Phys} (h : s.sameRegsBut t ds)
    (hds : s.flag.p = false → .ssp ∉ ds) : s.keepsSsp t := fun hp => h .ssp (hds hp)

theorem keepsSsp_setReg {s t : State} {rd : Reg} {d : Phys} (hd : resolve s rd = .ok d) (h : s.sameRegsBut t [d]) :
    s.keepsSsp t :=
  keepsSsp_of_sameRegsBut h fun hp hmem => resolve_ne_ssp hp hd (List.mem_singleton.1 hmem).symm

theorem keepsSsp_setSp {s t : State} (h : s.sameRegsBut t [spOf s]) : s.keepsSsp t :=
  keepsSsp_of_sameRegsBut h fun hp hmem => by simp [spOf_of_user hp] at hmem

theorem stored_of_push {s u : State} {x : Word} (h : push s x = .ok u) (a : Word) : s.Stored (u.goto a).mem := by
  obtain ⟨mem, hm, rfl⟩ := push_eq_ok.1 h
  exact .inl ⟨_, _, hm⟩

theorem stored_of_writeLoc {s : State} {l : Loc} {x : Word} {mem : Memory} (h : writeLoc s l x = .ok mem) :
    s.Stored mem := by
  obtain ⟨a, -, ⟨-, hw⟩ | ⟨-, hb⟩⟩ := writeLoc_eq_ok.1 h
  · exact .inl ⟨a, _, hw⟩
  · exact .inr ⟨a, _, hb⟩

/-- The case split over the kinds of instructions. -/
theorem exec_eq_next {i : Instr} {s t : State} (h : exec i s = .next t) : tookTrap s t ∨ Completes i s t := by
  cases kind i with
  | computes rd m draws g hi =>
    refine (computes_eq_next (hi s ▸ h)).imp_right ?_
    rintro ⟨o, c, ho, -, rfl⟩
    obtain ⟨hregs, -, hsys⟩ := finish_changesOnly s draws o.dst c.result c.flags m
    exact .keeps (by cases draws <;> rfl) hsys (keepsSsp_setReg (operands_eq_ok.1 ho).1 hregs)
  | computesPair rd m g hi =>
    refine (computesPair_eq_next (hi s ▸ h)).imp_right ?_
    rintro ⟨o, c, ho, -, rfl⟩
    obtain ⟨hregs, -, hsys⟩ := finishPair_changesOnly s o c.lo c.hi c.flags m
    obtain ⟨-, hlo, hhi, -⟩ := pairOf_eq_ok (pairOperands_eq_ok.1 ho).1
    exact .keeps rfl hsys (keepsSsp_of_sameRegsBut hregs fun _ => by simp [hlo.symm, hhi.symm])
  | jump cond tg hi =>
    obtain ⟨a, -, rfl⟩ := jumpWhen_eq_next (hi s ▸ h)
    exact .inr (.keeps rfl s.sameSystem_refl fun _ => rfl)
  | no =>
    cases exec_no s ▸ h
    exact .inr (.keeps rfl s.sameSystem_refl fun _ => rfl)
  | ld rd m =>
    refine (exec_ld_eq_next h).imp_right ?_
    rintro ⟨d, v, hd, -, rfl⟩
    exact .keeps rfl s.sameSystem_refl (keepsSsp_setReg hd (s.sameRegsBut_setReg d v))
  | ldFlag rd =>
    refine (exec_ldFlag_eq_next h).imp_right ?_
    rintro ⟨d, hd, rfl⟩
    exact .keeps rfl s.sameSystem_refl (keepsSsp_setReg hd (s.sameRegsBut_setReg d _))
  | st rd l =>
    refine (exec_st_eq_next h).imp_right ?_
    rintro ⟨d, mem, -, hm, rfl⟩
    exact .stores (stored_of_writeLoc hm) s.sameSystem_refl fun _ => rfl
  | cmp rd m =>
    refine (exec_cmp_eq_next h).imp_right ?_
    rintro ⟨o, -, rfl⟩
    exact .keeps rfl s.sameSystem_refl fun _ => rfl
  | call tg =>
    refine (exec_call_eq_next h).imp_right ?_
    rintro ⟨a, u, -, hu, rfl⟩
    obtain ⟨-, hsys, hregs, -⟩ := push_keeps hu a
    exact .stores (stored_of_push hu a) hsys (keepsSsp_setSp hregs)
  | push rd =>
    refine (exec_push_eq_next h).imp_right ?_
    rintro ⟨d, u, -, hu, rfl⟩
    obtain ⟨-, hsys, hregs, -⟩ := push_keeps hu (npc s 0)
    exact .stores (stored_of_push hu _) hsys (keepsSsp_setSp hregs)
  | pop rd =>
    refine (exec_pop_eq_next h).imp_right ?_
    rintro ⟨d, ⟨x, u⟩, hd, hr, rfl⟩
    obtain ⟨-, rfl⟩ := pop_eq_ok.1 hr
    obtain ⟨⟨hregs, -, hsys⟩, -⟩ := s.keepsFlag_setReg_setReg_goto (spOf s) d (s.regs.get (spOf s) + 2) x (npc s 0)
    refine .keeps rfl hsys (keepsSsp_of_sameRegsBut hregs fun hp hmem => ?_)
    simp [spOf_of_user hp, (resolve_ne_ssp hp hd).symm] at hmem
  | ret =>
    refine (exec_ret_eq_next h).imp_right ?_
    rintro ⟨⟨x, u⟩, hr, rfl⟩
    obtain ⟨-, rfl⟩ := pop_eq_ok.1 hr
    exact .keeps rfl s.sameSystem_refl (keepsSsp_setSp (s.sameRegsBut_setReg _ _))
  | reti => exact (exec_reti_eq_next h).imp_right fun hr => .returns rfl hr
  | svc => exact .inl ⟨.supervisorCall, h⟩
  | inp rd p =>
    refine (exec_inp_eq_next h).imp_right ?_
    rintro ⟨hp, d, a, -, -, rfl⟩
    exact .privileged hp hp rfl ⟨[], (List.append_nil _).symm, Nat.zero_le 1⟩
  | out rd p =>
    refine (exec_out_eq_next h).imp_right ?_
    rintro ⟨hp, a, v, u, -, hu, rfl⟩
    obtain ⟨-, hmem, hflag, -, -, -, hout⟩ := ioWrite_frame hu
    exact .privileged hp ((congrArg Flag.p hflag).trans hp) hmem ⟨_, hout, Nat.le_refl 1⟩
  | ei =>
    refine (exec_ei_eq_next h).imp_right ?_
    rintro ⟨hp, rfl⟩
    exact .privileged hp hp rfl ⟨[], (List.append_nil _).symm, Nat.zero_le 1⟩
  | di =>
    refine (exec_di_eq_next h).imp_right ?_
    rintro ⟨hp, rfl⟩
    exact .privileged hp hp rfl ⟨[], (List.append_nil _).symm, Nat.zero_le 1⟩
  | halt =>
    refine (exec_halt_eq_next h).imp_right ?_
    rintro ⟨hp, rfl⟩
    exact .privileged hp hp rfl ⟨[], (List.append_nil _).symm, Nat.zero_le 1⟩

/-! ## What a step does -/

theorem readWord_deliver (s : State) (k : AccessKind) (a : Word) : readWord (deliver s) k a = readWord s k a := by
  simp [readWord, checkWord, limitViolation]

/-- A step that leads to a next state: an interrupt, an idle step of a halted CPU, the trap of an exception, or an
instruction that takes no trap. -/
theorem step_eq_next {s t : State} (h : step s = .next t) :
    (∃ k, acceptInterrupt (deliver s) k = .next t) ∨ (s.halted = true ∧ t = deliver s) ∨ tookTrap (deliver s) t ∨
      ∃ w1 w2 i, s.executes ∧ readWord s .fetch s.pc = .ok w1 ∧ decode w1 w2 = .ok i ∧ Completes i (deliver s) t := by
  rcases step_cases s with ⟨k, -, hk⟩ | ⟨-, hh, hi⟩ | ⟨ha, hh, hf⟩
  · exact .inl ⟨k, hk ▸ h⟩
  · exact .inr (.inl ⟨hh, by cases hi ▸ h; rfl⟩)
  · refine .inr (.inr ?_)
    rcases fetchExecute_eq_next (hf ▸ h) with he | ⟨w1, w2, i, hw1, hd, -, -, hx⟩
    · exact .inl he
    · rw [readWord_deliver, deliver_pc] at hw1
      exact (exec_eq_next hx).imp_right fun hc => ⟨w1, w2, i, ⟨hh, ha⟩, hw1, hd, hc⟩

/-- The state a trap was entered from, as far as a trap's effects go. -/
theorem tookTrap_cases {s t : State} (h : tookTrap s t) :
    ∃ u v x, trapBlocked s = false ∧ (u = s ∨ u = s.afterDraw) ∧ t = trapState u v x := by
  obtain ⟨e, he⟩ := h
  obtain ⟨hb, u, x, hu, rfl⟩ := raiseExc_eq_next he
  exact ⟨u, _, x, hb, hu, rfl⟩

/-- Of a trap: P, the memory, the history. -/
theorem tookTrap_effect {s t : State} (h : tookTrap s t) :
    t.flag.p = true ∧ trapBlocked s = false ∧ (∃ x, t.mem = trapMemory s x) ∧ t.outputs = s.outputs := by
  obtain ⟨u, v, x, hb, rfl | rfl, rfl⟩ := tookTrap_cases h
  · exact ⟨rfl, hb, ⟨x, rfl⟩, rfl⟩
  · exact ⟨rfl, hb, ⟨x, rfl⟩, rfl⟩

theorem acceptInterrupt_effect {s t : State} {k : Fin 10} (h : acceptInterrupt s k = .next t) :
    t.flag.p = true ∧ trapBlocked s = false ∧ (∃ x, t.mem = trapMemory s x) ∧ t.outputs = s.outputs := by
  obtain ⟨hb, rfl⟩ := trapEntry_eq_next.1 h
  exact ⟨rfl, hb, ⟨s.pc, rfl⟩, rfl⟩

/-! ## Addresses in the ROM -/

theorem isOdd_eq (a : Word) : isOdd a = decide (a.toNat % 2 = 1) := by
  rw [isOdd, BitVec.getLsbD, Nat.testBit_zero]

/-- A word at an even address is in the ROM with both bytes or with none (20_memory.md R58). -/
theorem not_inWord_of_romByte {a : Word} {n : Nat} (hn : romByte n) (ho : isOdd a = false) (hr : inRom a = false) :
    ¬inWord a n := by
  rw [isOdd_eq, decide_eq_false_iff_not] at ho
  rw [inRom_eq_false_iff] at hr
  simp only [romByte, inWord, BitVec.toNat_add, BitVec.ofNat_eq_ofNat, BitVec.toNat_ofNat] at *
  omega

theorem isOdd_sub_two (a : Word) : isOdd (a - 2) = isOdd a := by
  simp only [isOdd_eq, BitVec.toNat_sub, BitVec.ofNat_eq_ofNat, BitVec.toNat_ofNat]
  congr 1
  have := a.isLt
  simp only [eq_iff_iff]
  omega

theorem isOdd_sub_four (a : Word) : isOdd (a - 4) = isOdd a := by
  have h : a - 4 = a - 2 - 2 := by bv_omega
  rw [h, isOdd_sub_two, isOdd_sub_two]

theorem trapBlocked_eq_false_iff (s : State) : trapBlocked s = false ↔ s.canTrap := by
  simp [trapBlocked, State.canTrap, and_assoc]

/-- The pushes of a trap entry leave the ROM alone (60_exceptions.md R224). -/
theorem read_trapMemory_of_romByte {s : State} {n : Nat} (hb : trapBlocked s = false) (hn : romByte n) (x : Word) :
    (trapMemory s x).read n = s.mem.read n := by
  obtain ⟨ho, hr2, hr4⟩ := (trapBlocked_eq_false_iff s).1 hb
  rw [trapMemory, read_storeWord_of_not_inWord _ _ (not_inWord_of_romByte hn ((isOdd_sub_four _).trans ho) hr4),
    read_storeWord_of_not_inWord _ _ (not_inWord_of_romByte hn ((isOdd_sub_two _).trans ho) hr2)]

/-! ## Stores -/

theorem State.Stored.wf {s : State} {m : Memory} (h : s.Stored m) (hs : s.mem.wf = true) : m.wf = true := by
  rcases h with ⟨a, x, hw⟩ | ⟨a, x, hw⟩
  · obtain ⟨-, -, -, rfl⟩ := writeWord_eq_ok.1 hw
    exact storeWord_wf a x hs
  · obtain ⟨-, -, rfl⟩ := writeByte_eq_ok.1 hw
    exact Memory.write_wf x hs a.isLt

theorem State.Stored.read_of_romByte {s : State} {m : Memory} {n : Nat} (h : s.Stored m) (hn : romByte n) :
    m.read n = s.mem.read n := by
  rcases h with ⟨a, x, hw⟩ | ⟨a, x, hw⟩
  · obtain ⟨ho, -, hr, rfl⟩ := writeWord_eq_ok.1 hw
    exact read_storeWord_of_not_inWord _ _ (not_inWord_of_romByte hn ho hr)
  · obtain ⟨-, hr, rfl⟩ := writeByte_eq_ok.1 hw
    exact Memory.read_write_of_ne _ _ fun h => inRom_eq_false_iff.1 hr (h ▸ hn)

/-- A store changes bytes that some allowed write reaches (20_memory.md R54). -/
theorem State.Stored.read_of_not_reaches {s : State} {m : Memory} {n : Nat} (h : s.Stored m)
    (hn : ¬s.reaches .write n) : m.read n = s.mem.read n := by
  rcases h with ⟨a, x, hw⟩ | ⟨a, x, hw⟩
  · obtain ⟨ho, hv, -, rfl⟩ := writeWord_eq_ok.1 hw
    exact read_storeWord_of_not_inWord _ _ fun hin => hn ⟨a, .inr ⟨ho, hv, hin⟩⟩
  · obtain ⟨hv, -, rfl⟩ := writeByte_eq_ok.1 hw
    exact Memory.read_write_of_ne _ _ fun h => hn ⟨a, .inl ⟨hv, h⟩⟩

/-- The memory after an instruction that takes no trap is the old one, or one that a store left. -/
theorem Completes.mem_eq_or_stored {i : Instr} {s t : State} (h : Completes i s t) :
    t.mem = s.mem ∨ s.Stored t.mem := by
  cases h with
  | keeps hmem => exact .inl hmem
  | stores hmem => exact .inr hmem
  | returns _ hr =>
    obtain ⟨-, hmem, -⟩ := returnFromTrap_frame hr
    exact .inl hmem
  | privileged _ _ hmem => exact .inl hmem

/-- The memory after a step: the old one, one that a store left, or one that a trap's pushes left. -/
theorem step_mem {s t : State} (h : step s = .next t) :
    t.mem = s.mem ∨ (deliver s).Stored t.mem ∨
      (trapBlocked (deliver s) = false ∧ ∃ x, t.mem = trapMemory (deliver s) x) := by
  rcases step_eq_next h with ⟨k, hk⟩ | ⟨-, rfl⟩ | ht | ⟨w1, w2, i, -, -, -, hc⟩
  · obtain ⟨-, hb, hm, -⟩ := acceptInterrupt_effect hk
    exact .inr (.inr ⟨hb, hm⟩)
  · exact .inl (deliver_mem s)
  · obtain ⟨-, hb, hm, -⟩ := tookTrap_effect ht
    exact .inr (.inr ⟨hb, hm⟩)
  · rcases hc.mem_eq_or_stored with hm | hm
    · exact .inl (hm.trans (deliver_mem s))
    · exact .inr (.inl hm)

/-- In user mode an instruction that takes no trap keeps the protected part of the state. -/
theorem Completes.sameProtected {i : Instr} {s t : State} (h : Completes i s t) (hp : s.flag.p = false) :
    s.sameProtected t := by
  cases h with
  | keeps _ hsys hssp =>
    obtain ⟨hmode, hio, hhalt, -⟩ := hsys
    exact ⟨hmode, hssp hp, hio, hhalt⟩
  | stores _ hsys hssp =>
    obtain ⟨hmode, hio, hhalt, -⟩ := hsys
    exact ⟨hmode, hssp hp, hio, hhalt⟩
  | returns _ hr =>
    obtain ⟨hregs, -, hio, ⟨hhalt, -⟩, hmode⟩ := returnFromTrap_frame hr
    exact ⟨hmode hp, keepsSsp_setSp hregs hp, hio, hhalt⟩
  | privileged hp' => simp [hp] at hp'

theorem State.sameProtected_of_deliver {s t : State} (h : (deliver s).sameProtected t) : s.sameProtected t := by
  simpa [State.sameProtected, State.sameMode, State.sameIo, State.sameLimits] using h

theorem reaches_deliver (s : State) (k : AccessKind) (n : Nat) : (deliver s).reaches k n ↔ s.reaches k n := by
  simp [State.reaches, State.allows, limitViolation]

end Sys2Proof.Machine

namespace Sys2Proof

open Sys2Proof.Machine

/-- Settles O53: a store and the pushes of a trap keep the canonical form. -/
theorem stepKeepsCanonicalMemory : Obligations.StepKeepsCanonicalMemory := by
  intro s t hinv h
  have hwf : (deliver s).mem.wf = true := (congrArg Memory.wf (deliver_mem s)).trans hinv
  rcases step_mem h with hm | hm | ⟨-, x, hm⟩
  · exact (congrArg Memory.wf hm).trans hinv
  · exact hm.wf hwf
  · exact (congrArg Memory.wf hm).trans (trapMemory_wf x hwf)

/-- Settles O54: the memory after reset lists nothing. -/
theorem resetMemoryIsCanonical : Obligations.ResetMemoryIsCanonical := rfl

/-- Settles O56: neither a store nor a push of a trap reaches the ROM. -/
theorem stepKeepsRom : Obligations.StepKeepsRom := by
  intro s t n hn h
  rcases step_mem h with hm | hm | ⟨hb, x, hm⟩
  · rw [hm]
  · rw [hm.read_of_romByte hn, deliver_mem]
  · rw [hm, read_trapMemory_of_romByte hb hn, deliver_mem]

/-- Settles O57: in user mode an instruction that takes no trap is none of the privileged ones. -/
theorem userStepIsConfined : Obligations.UserStepIsConfined := by
  intro s t hp h
  rcases step_eq_next h with hk | ⟨-, rfl⟩ | ht | ⟨w1, w2, i, -, -, -, hc⟩
  · exact .inr (.inl hk)
  · refine .inr (.inr ⟨State.sameProtected_of_deliver ?_, fun n _ => by rw [deliver_mem]⟩)
    exact ⟨⟨rfl, rfl⟩, rfl, State.sameIo_refl _, rfl⟩
  · exact .inl ht
  · refine .inr (.inr ⟨State.sameProtected_of_deliver (hc.sameProtected (by rw [deliver_flag, hp])), fun n hn => ?_⟩)
    rw [← reaches_deliver] at hn
    rw [← deliver_mem s]
    rcases hc.mem_eq_or_stored with hm | hm
    · rw [hm]
    · exact hm.read_of_not_reaches hn

/-- Settles O59: P rises in a trap or an interrupt only, because user mode is confined; it falls in RETI only, which is
encoded as D400h. -/
theorem modeChanges : Obligations.ModeChanges := by
  intro s t h
  refine ⟨fun hp hp' => ?rises, fun hp hp' => ?falls⟩
  case rises =>
    rcases userStepIsConfined s t hp h with ht | hk | ⟨⟨⟨-, hsame⟩, -⟩, -⟩
    · exact .inl ht
    · exact .inr hk
    · rw [hsame, hp] at hp'
      cases hp'
  case falls =>
    have hpd : (deliver s).flag.p = true := by rw [deliver_flag, hp]
    have hne : t.flag.p ≠ true := by simp [hp']
    rcases step_eq_next h with ⟨k, hk⟩ | ⟨-, rfl⟩ | ht | ⟨w1, w2, i, hx, hw1, hd, hc⟩
    · obtain ⟨hset, -⟩ := acceptInterrupt_effect hk
      exact absurd hset hne
    · exact absurd hpd hne
    · obtain ⟨hset, -⟩ := tookTrap_effect ht
      exact absurd hset hne
    · cases hc with
      | keeps _ hsys =>
        obtain ⟨⟨-, hsame⟩, -⟩ := hsys
        exact absurd (hsame.trans hpd) hne
      | stores _ hsys =>
        obtain ⟨⟨-, hsame⟩, -⟩ := hsys
        exact absurd (hsame.trans hpd) hne
      | privileged _ hset => exact absurd hset hne
      | returns hi hr =>
        subst hi
        obtain ⟨f, x, hf, -, rfl⟩ := returnFromTrap_eq_ok.1 hr
        obtain ⟨-, -, rfl⟩ := readWord_eq_ok.1 hf
        obtain ⟨-, -, rfl⟩ := readWord_eq_ok.1 hw1
        obtain ⟨-, hw, -⟩ := decode_eq_ok hd
        refine ⟨hx, (List.cons.inj hw).1.symm, ?_⟩
        rw [State.goto_flag, State.setFlag_flag, flagAfterReti_of_priv hpd, spOf_of_priv hpd] at hp'
        simpa [flagOfWord] using hp'

/-- Settles O60: only OUT adds to the history, and in user mode no instruction does. -/
theorem historyOnlyGrows : Obligations.HistoryOnlyGrows := by
  intro s t h
  have unchanged (hout : t.outputs = (deliver s).outputs) :
      ∃ l : List IoWrite, t.outputs = s.outputs ++ l ∧ l.length ≤ 1 ∧ (s.flag.p = false → l = []) :=
    ⟨[], by rw [hout, deliver_outputs, List.append_nil], Nat.zero_le 1, fun _ => rfl⟩
  rcases step_eq_next h with ⟨k, hk⟩ | ⟨-, rfl⟩ | ht | ⟨w1, w2, i, -, -, -, hc⟩
  · obtain ⟨-, -, -, hout⟩ := acceptInterrupt_effect hk
    exact unchanged hout
  · exact unchanged rfl
  · obtain ⟨-, -, -, hout⟩ := tookTrap_effect ht
    exact unchanged hout
  · cases hc with
    | keeps _ hsys =>
      obtain ⟨-, ⟨-, -, hout⟩, -⟩ := hsys
      exact unchanged hout
    | stores _ hsys =>
      obtain ⟨-, ⟨-, -, hout⟩, -⟩ := hsys
      exact unchanged hout
    | returns _ hr =>
      obtain ⟨-, -, ⟨-, -, hout⟩, -⟩ := returnFromTrap_frame hr
      exact unchanged hout
    | privileged hp _ _ hout =>
      obtain ⟨l, hl, hlen⟩ := hout
      exact ⟨l, by rw [hl, deliver_outputs], hlen, fun hp' => by simp [hp'] at hp⟩

end Sys2Proof
end

section
/-!
PROOF. The step (30_encoding.md section 3, 60_exceptions.md section 2): which word the privilege check meets, what a
decoded instruction comes to, the order of the stops before it, the acceptance of an interrupt, and what requests do.
-/

namespace Sys2Proof.Machine

/-! ## The privilege check on the first word -/

/-- The OP bytes of IN, OUT, EI, DI and HALT (60_exceptions.md R231). -/
def privilegedOps : List Byte := [0xB0, 0xB6, 0xB7, 0xB8, 0xBE, 0xBF, 0xE0, 0xE4, 0xFF]

theorem privOf_cases (w1 : Word) :
    (privOf w1 = none ∧ opField w1 ∉ privilegedOps) ∨ (privOf w1 = some .reti ∧ opField w1 ∉ privilegedOps) ∨
      ∃ q, q ≠ .reti ∧ privOf w1 = some q ∧ opField w1 ∈ privilegedOps := by
  have hmem : opField w1 ∈ privilegedOps ↔
      (opField w1).toNat ∈ [0xB0, 0xB6, 0xB7, 0xB8, 0xBE, 0xBF, 0xE0, 0xE4, 0xFF] := by
    simp [privilegedOps, opField_eq_iff]
  rw [hmem, privOf]
  split <;> simp_all

/-- The check on the first word refuses it in user mode for the five instructions of PRIV_SET (60_exceptions.md R204).
-/
theorem wordForbidden_iff (s : State) (w1 : Word) :
    wordForbidden s w1 = true ↔ s.flag.p = false ∧ opField w1 ∈ privilegedOps := by
  rw [wordForbidden]
  rcases privOf_cases w1 with ⟨hq, hop⟩ | ⟨hq, hop⟩ | ⟨q, hne, hq, hop⟩
  · simp [hq, hop]
  · simp [hq, hop, forbidden, Config.privSet]
  · simp [hq, hop, forbidden_eq hne]

/-- An instruction in a row of the opcode map with a port operand is IN or OUT. -/
theorem exists_port_of_decodeMap {p : Byte × (Reg → Port → Instr)} (hp : p ∈ portRows) {w1 w2 : Word} {i : Instr}
    (hrow : (rowField w1).toNat = p.1.toNat / 8) (h : decodeMap w1 w2 = .ok i) : ∃ rd q, i = p.2 rd q := by
  rw [decodeMap_of_mem_portRows p hp w1 w2 hrow] at h
  cases hq : decodePort (modeField w1) (rxField w1) w2 with
  | error r =>
    rw [hq] at h
    cases h
  | ok q =>
    rw [hq] at h
    exact ⟨_, q, (Except.ok.inj h).symm⟩

theorem padded_eq_ok {α : Type} {p : Nibble} {x : Except Reject α} {a : α} (h : padded p x = .ok a) : x = .ok a := by
  rw [padded] at h
  split at h
  · exact h
  · cases h

theorem eq_of_decodeMap_bareRow {p : Byte × Instr} (hp : p ∈ bareRows) {w1 w2 : Word} {i : Instr}
    (hop : opField w1 = p.1) (h : decodeMap w1 w2 = .ok i) : i = p.2 := by
  have hrow : ∀ p ∈ bareRows, p.1.toNat / 8 = 0 ∨ 0x18 ≤ p.1.toNat / 8 := by simp [bareRows]
  rw [decodeMap_of_shortRow, hop, decodeShort_of_mem_bareRows p hp] at h
  · exact (Except.ok.inj (padded_eq_ok (padded_eq_ok h))).symm
  · rw [toNat_rowField, hop]
    exact (hrow p hp).imp_left fun h => by rw [h]; decide

theorem decodeMap_of_decode {w1 w2 : Word} {i : Instr} (h : decode w1 w2 = .ok i) : decodeMap w1 w2 = .ok i := by
  cases hm : decodeMap w1 w2 with
  | error r =>
    rw [decode_of_decodeMap_error hm] at h
    cases h
  | ok j =>
    rw [decode_of_decodeMap_ok hm] at h
    cases hd : j.defect with
    | none =>
      rw [hd] at h
      exact h
    | some d =>
      rw [hd] at h
      cases h

/-- The five OP bytes' instructions themselves check for privilege, so a forbidden word that decodes traps alike. -/
theorem exec_of_wordForbidden {s : State} {w1 w2 : Word} {i : Instr} (h : decode w1 w2 = .ok i)
    (hf : wordForbidden s w1 = true) : exec i s = raiseExc s .privilegeViolation := by
  obtain ⟨hp, hop⟩ := (wordForbidden_iff s w1).1 hf
  have hmap := decodeMap_of_decode h
  have hkind : (rowField w1).toNat = 0x16 ∨ (rowField w1).toNat = 0x17 ∨ opField w1 = 0xE0 ∨ opField w1 = 0xE4 ∨
      opField w1 = 0xFF := by
    simp only [privilegedOps, List.mem_cons, List.not_mem_nil, or_false] at hop
    rw [toNat_rowField]
    rcases hop with hop | hop | hop | hop | hop | hop | hop | hop | hop <;> simp [hop]
  have hin : ∃ rd q, i ∈ [.inp rd q, .out rd q, .ei, .di, .halt] := by
    rcases hkind with hrow | hrow | hop | hop | hop
    · obtain ⟨rd, q, rfl⟩ := exists_port_of_decodeMap (p := (0xB0, .inp)) (by simp [portRows]) hrow hmap
      exact ⟨rd, q, by simp⟩
    · obtain ⟨rd, q, rfl⟩ := exists_port_of_decodeMap (p := (0xB8, .out)) (by simp [portRows]) hrow hmap
      exact ⟨rd, q, by simp⟩
    · exact ⟨.g0, .indirect .g0, by simp [eq_of_decodeMap_bareRow (p := (0xE0, .ei)) (by simp [bareRows]) hop hmap]⟩
    · exact ⟨.g0, .indirect .g0, by simp [eq_of_decodeMap_bareRow (p := (0xE4, .di)) (by simp [bareRows]) hop hmap]⟩
    · exact ⟨.g0, .indirect .g0, by simp [eq_of_decodeMap_bareRow (p := (0xFF, .halt)) (by simp [bareRows]) hop hmap]⟩
  obtain ⟨rd, q, hi⟩ := hin
  exact privilegedInUserModeTraps s rd q hp i hi


/-! ## What a decoded instruction comes to -/

/-- An instruction of one word is decoded with any second word. -/
theorem decode_of_extraWords_eq_zero {w1 w2 : Word} {i : Instr} (h : decode w1 w2 = .ok i) (hx : i.extraWords = 0)
    (v : Word) : decode w1 v = .ok i := by
  obtain ⟨hwf, henc⟩ := encodeOfDecode w1 w2 i h
  obtain ⟨w, rest, henc', -, hdec⟩ := decodeOfEncode i hwf
  rw [hx, List.replicate_zero, henc'] at henc
  obtain ⟨rfl, rfl⟩ := List.cons.inj henc
  exact hdec v (by simp)

theorem executeLong_of_decode {s : State} {w1 w2 : Word} {i : Instr} (hr : readWord s .fetch (s.pc + 2) = .ok w2)
    (h : decode w1 w2 = .ok i) : executeLong s w1 = exec i s := by
  simp only [executeLong, hr, h]

/-- A first word that decodes is executed as its instruction, once the second word is there (30_encoding.md R92). -/
theorem executeWord_of_decode {s : State} {w1 w2 : Word} {i : Instr} (h : decode w1 w2 = .ok i)
    (hx : i.extraWords = 0 ∨ readWord s .fetch (s.pc + 2) = .ok w2) : executeWord s w1 = exec i s := by
  obtain ⟨hlen, -, hall⟩ := decode_eq_ok h
  obtain ⟨j, hj, hlenj⟩ := hall 0
  rw [executeWord, hj]
  dsimp only
  cases hf : wordForbidden s w1 with
  | true => rw [if_pos rfl, exec_of_wordForbidden h hf]
  | false =>
    rw [if_neg Bool.false_ne_true]
    cases hn : j.extraWords with
    | zero =>
      have hji : j = i := by
        have := decode_of_extraWords_eq_zero h (by omega) 0
        rw [hj] at this
        exact Except.ok.inj this
      exact congrArg (exec · s) hji
    | succ n => exact executeLong_of_decode (hx.resolve_left (by omega)) h

theorem fetchExecute_of_readWord {s : State} {w1 : Word} (h : readWord s .fetch s.pc = .ok w1) :
    fetchExecute s = executeWord s w1 := by
  rw [fetchExecute, h]

theorem fetchExecute_of_raise {s : State} {e : Exc} (h : readWord s .fetch s.pc = .raise e) :
    fetchExecute s = raiseExc s e := by
  rw [fetchExecute, h]

theorem step_of_executes {s : State} (h : s.executes) : step s = fetchExecute (deliver s) := by
  obtain ⟨hh, ha⟩ := h
  rw [step, cycle, boundary, ha]
  simp [hh]

/-! ## Before the instruction -/

theorem executeWord_of_undefined {s : State} {w1 : Word} (h : decode w1 0 = .error .undefined) :
    executeWord s w1 = raiseExc s .undefinedInstruction := by
  rw [executeWord, h]
  rfl

theorem executeWord_of_padNonZero {s : State} {w1 : Word} (h : decode w1 0 = .error .padNonZero) :
    executeWord s w1 = .refused .padNonZero := by
  rw [executeWord, h]
  rfl

/-- A word that is neither undefined nor padded meets the privilege check next (30_encoding.md R101). -/
theorem executeWord_of_forbidden {s : State} {w1 : Word} (hu : ¬undefinedWord w1) (hp : ¬nonZeroPad w1)
    (hf : wordForbidden s w1 = true) : executeWord s w1 = raiseExc s .privilegeViolation := by
  rw [executeWord]
  cases hd : decode w1 0 with
  | error r =>
    cases r with
    | undefined => exact absurd (decode_eq_undefined_iff.1 hd) hu
    | padNonZero => exact absurd (decode_eq_padNonZero_iff.1 hd).2 hp
    | illFormed d => exact if_pos hf
  | ok i => exact if_pos hf

theorem executeWord_of_illFormed {s : State} {w1 : Word} {d : Defect} (h : decode w1 0 = .error (.illFormed d))
    (hf : wordForbidden s w1 = false) : executeWord s w1 = .refused (defectRefusal d) := by
  rw [executeWord, h]
  dsimp only
  rw [hf]
  rfl

theorem executeWord_of_second_raise {s : State} {w1 : Word} {i : Instr} {e : Exc} (h : decode w1 0 = .ok i)
    (hf : wordForbidden s w1 = false) (hx : i.extraWords = 1) (he : readWord s .fetch (s.pc + 2) = .raise e) :
    executeWord s w1 = raiseExc s e := by
  rw [executeWord, h]
  dsimp only
  rw [hf, hx]
  simp only [executeLong, he]
  rfl

/-! ## A placed instruction -/

/-- The bits of a table row decode to the instruction their two words decode to. -/
theorem decode_of_decodeTableWord {nbits w : Nat} {i : Instr} (h : decodeTableWord nbits w = some i) :
    ∃ v, decode (tableWords nbits w).1 v = .ok i ∧ (i.extraWords = 0 ∨ v = (tableWords nbits w).2) := by
  simp only [decodeTableWord, decodeBytes, joinBytes_hi_lo] at h
  cases hd : decode (tableWords nbits w).1 0 with
  | error r =>
    simp only [hd] at h
    cases h
  | ok j =>
    simp only [hd] at h
    cases hx : j.extraWords with
    | zero =>
      simp only [hx, Option.some.injEq] at h
      subst h
      exact ⟨0, hd, .inl hx⟩
    | succ n =>
      simp only [hx] at h
      cases hd2 : decode (tableWords nbits w).1 (tableWords nbits w).2 with
      | error r =>
        simp only [hd2] at h
        cases h
      | ok k =>
        simp only [hd2, Option.some.injEq] at h
        subst h
        exact ⟨_, hd2, .inr rfl⟩

/-- The placed words are what the step fetches; the CPU executes (70_reset_and_hazards.md R263). -/
theorem withFetchWord_fetches {s : State} (hinv : s.Inv) (nbits w : Nat) :
    (s.withFetchWord nbits w).executes ∧
      loadWord (s.withFetchWord nbits w).mem s.pc = (tableWords nbits w).1 ∧
      loadWord (s.withFetchWord nbits w).mem (s.pc + 2) = (tableWords nbits w).2 := by
  have hwf : s.mem.wf = true := hinv
  refine ⟨⟨rfl, ?_⟩, ?_, loadWord_storeWord_same _ _ (storeWord_wf _ _ hwf)⟩
  · have hpend : (deliver (s.withFetchWord nbits w)).pending = 0 := rfl
    have hfind :
        Config.intPriority.find? (fun k => (deliver (s.withFetchWord nbits w)).pending.getLsbD k.val) = none := by
      simp [hpend]
    rw [acceptable, hfind, ite_self]
  · exact (loadWord_storeWord_of_ne _ _ _ _ (by bv_omega) (by bv_omega) (by bv_omega)).trans
      (loadWord_storeWord_same _ _ hwf)

/-! ## Interrupts -/

theorem intPriority_eq_append (k : Fin 10) : ∃ as bs, Config.intPriority = as ++ k :: bs ∧ ∀ j ∈ as, j < k := by
  have h : Config.intPriority = Config.intPriority.take k.val ++ k :: Config.intPriority.drop (k.val + 1) ∧
      ∀ j ∈ Config.intPriority.take k.val, j < k := by
    revert k
    decide
  exact ⟨_, _, h⟩

/-- The source accepted is the least that is pending (60_exceptions.md R213). -/
theorem acceptable_eq_some {s : State} {k : Fin 10} (hh : s.halted = false) (he : s.flag.e = true)
    (hk : s.pending.getLsbD k.val = true) (hlt : ∀ j : Fin 10, j < k → s.pending.getLsbD j.val = false) :
    acceptable s = some k := by
  obtain ⟨as, bs, happ, has⟩ := intPriority_eq_append k
  rw [acceptable, if_pos (by simp [he, hh])]
  exact List.find?_eq_some_iff_append.2 ⟨hk, as, bs, happ, fun j hj => by rw [hlt j (has j hj)]; rfl⟩

theorem acceptable_eq_none {s : State} (h : s.flag.e = false ∨ s.pending = 0) : acceptable s = none := by
  rw [acceptable]
  rcases h with h | h
  · simp [h]
  · simp [h]

theorem irqVector_eq (k : Fin 10) : irqVector k = BitVec.ofNat 16 (0xFFE0 + 2 * k.val) := by
  revert k
  decide

theorem getLsbD_clearPending (p : BitVec 10) (k j : Fin 10) :
    (clearPending p k).getLsbD j.val = (p.getLsbD j.val && decide (j ≠ k)) := by
  have hj := j.isLt
  simp [clearPending, hj, Fin.ext_iff]

/-! ## Requests -/

/-- The enable bits one by one from the top (60_exceptions.md R210). -/
theorem irqEnables_eq_concat (d : Devices) : irqEnables d =
    (((((((((BitVec.ofBool true).concat (d.usdCtrl.getLsbD 3)).concat (d.tecCtrl.getLsbD 7)).concat
      (d.tecCtrl.getLsbD 6)).concat (d.ftdiCtrl.getLsbD 7)).concat (d.ftdiCtrl.getLsbD 6)).concat
      (d.rnCtrl.getLsbD 7)).concat (d.rnCtrl.getLsbD 6)).concat (timerEnabled d.timer1Control)).concat
      (timerEnabled d.timer0Control) := rfl

end Sys2Proof.Machine

namespace Sys2Proof

open Sys2Proof.Machine

/-- Settles O6: a step that executes is the fetch, and a fetched word that decodes is executed. -/
theorem stepRunsDecodedInstruction : Obligations.StepRunsDecodedInstruction := by
  intro s w1 w2 i hex hr hd hx
  rw [step_of_executes hex, fetchExecute_of_readWord (by rw [readWord_deliver, deliver_pc, hr]),
    executeWord_of_decode hd (by rw [readWord_deliver, deliver_pc]; exact hx)]

/-- Settles O7: the placed words are the ones a privileged step at an even PC fetches. -/
theorem stepRunsLoadedWord : Obligations.StepRunsLoadedWord := by
  intro s nbits w i hinv hp ho h
  obtain ⟨v, hd, hx⟩ := decode_of_decodeTableWord h
  obtain ⟨hex, h1, h2⟩ := withFetchWord_fetches hinv nbits w
  have hfetch (a : Word) (ha : isOdd a = false) : readWord (s.withFetchWord nbits w) .fetch a =
      .ok (loadWord (s.withFetchWord nbits w).mem a) :=
    readWord_eq_ok.2 ⟨ha, limitViolation_of_priv hp _ _ _, rfl⟩
  have ho2 : isOdd (s.pc + 2) = false := by
    rw [← isOdd_sub_two, show s.pc + 2 - 2 = s.pc by bv_omega, ho]
  refine stepRunsDecodedInstruction _ _ v i hex (h1 ▸ hfetch s.pc ho) hd (hx.imp_right fun hv => ?_)
  rw [hv, ← h2]
  exact hfetch _ ho2

/-- Settles O8: the stops of a fetched word in the order the step tests them. -/
theorem orderOfDecodeTimeStops : Obligations.OrderOfDecodeTimeStops := by
  intro s hex
  rw [step_of_executes hex]
  have hfetch (a : Word) : readWord (deliver s) .fetch a = readWord s .fetch a := readWord_deliver s .fetch a
  refine ⟨fun e he => fetchExecute_of_raise (by rw [hfetch, deliver_pc, he]), ?_⟩
  intro w1 hw1 privileged
  rw [fetchExecute_of_readWord (by rw [hfetch, deliver_pc, hw1])]
  have hforb : wordForbidden (deliver s) w1 = true ↔ s.flag.p = false ∧ privileged := by
    rw [wordForbidden_iff, deliver_flag]
    rfl
  refine ⟨fun hu => executeWord_of_undefined (decode_eq_undefined_iff.2 hu),
    fun hu hp => executeWord_of_padNonZero (decode_eq_padNonZero_iff.2 ⟨hu, hp⟩),
    fun hu hp hmode hpriv => executeWord_of_forbidden hu hp (hforb.2 ⟨hmode, hpriv⟩), fun hu hp hpriv => ?_⟩
  have hf : wordForbidden (deliver s) w1 = false := by
    rw [← Bool.not_eq_true, hforb]
    rintro ⟨hmode, hin⟩
    rcases hpriv with h | h
    · simp [hmode] at h
    · exact h hin
  exact ⟨fun d hd => executeWord_of_illFormed hd hf,
    fun i e hd hx he => executeWord_of_second_raise hd hf hx (by rw [hfetch, deliver_pc, he])⟩

/-- Settles O9: the accepted source is the least pending one; with none the step executes. -/
theorem interruptAcceptance : Obligations.InterruptAcceptance := by
  intro s hh
  refine ⟨fun k he hk hlt => ?accepted, fun h => ⟨hh, acceptable_eq_none ?none⟩⟩
  case accepted =>
    refine ⟨clearPending (deliver s).pending k, fun j => getLsbD_clearPending _ k j, ?_⟩
    have hacc : acceptable (deliver s) = some k :=
      acceptable_eq_some (by rw [deliver_halted, hh]) (by rw [deliver_flag, he]) hk hlt
    have hhalt : (deliver s).halted = false := by rw [deliver_halted, hh]
    rw [step, cycle, boundary, hacc]
    dsimp only
    rw [acceptInterrupt, irqVector_eq, deliver_pc, ← hhalt]
  case none => rwa [deliver_flag]

/-- Settles O10: the halted branch of the step. -/
theorem haltedStepDoesNothing : Obligations.HaltedStepDoesNothing := by
  intro s hh
  have hacc : acceptable (deliver s) = none := by simp [acceptable, hh, Config.haltWake]
  have hstep : step s = .next (deliver s) := by
    rw [step, cycle, boundary, hacc]
    simp [hh]
  exact ⟨deliver s, hstep, by simp [hh], by simp, by simp, by simp, by simp,
    ⟨deliver_limitLo s, deliver_limitHi s, deliver_protectRule s⟩, deliver_dev s, deliver_outputs s⟩

/-- Settles O11: the pending bits are joined with the requests under the mask of the enable bits. -/
theorem requestsNeedEnableBits : Obligations.RequestsNeedEnableBits := by
  intro s m rest h enabled
  have hdel : deliver s = { s with pending := s.pending ||| (m &&& irqEnables s.dev), arrivals := rest } := by
    rw [deliver, h]
  have hen (k : Fin 10) : (irqEnables s.dev).getLsbD k.val = enabled k := by
    rw [irqEnables_eq_concat]
    fin_cases k <;> simp [enabled, timerEnabled]
  exact ⟨by rw [hdel], fun k => by rw [hdel, BitVec.getLsbD_or, BitVec.getLsbD_and, hen]⟩

/-- Settles O55: the fields of the state after reset; nothing is pending, so the first step executes. -/
theorem resetValues : Obligations.ResetValues :=
  ⟨rfl, rfl, rfl, rfl, rfl, rfl, rfl, acceptable_eq_none (.inl rfl)⟩

end Sys2Proof
end

section
/-!
PROOF. What user-mode code can learn (60_exceptions.md R230, 20_memory.md R62). Two states in user mode that agree but
for SSP, unreachable memory, devices and history deliver the same operands to every instruction, because no register
number names SSP and every read is checked; and each update an unprivileged instruction makes keeps them in agreement.
-/

namespace Sys2Proof.Machine

/-- A trap ends in privileged mode (60_exceptions.md R220). -/
theorem not_tookTrap {u t : State} (ht : t.flag.p = false) : ¬tookTrap u t := fun htrap => by
  obtain ⟨hp, -⟩ := tookTrap_effect htrap
  simp [ht] at hp

/-- Two states in user mode, in canonical form, that user-mode code cannot tell apart. -/
structure UserPair (s s' : State) : Prop where
  user : s.flag.p = false
  wf : s.mem.wf = true
  wf' : s'.mem.wf = true
  same : s.sameForUser s'

namespace UserPair

variable {s s' : State} (h : UserPair s s')

include h

/-! ## What the two states deliver -/

theorem pc_eq : s'.pc = s.pc := by
  obtain ⟨-, hpc, -⟩ := h.same
  exact hpc

theorem flag_eq : s'.flag = s.flag := by
  obtain ⟨-, -, hflag, -⟩ := h.same
  exact hflag

theorem user' : s'.flag.p = false := h.flag_eq ▸ h.user

theorem get_eq {d : Phys} (hd : d ≠ .ssp) : s'.regs.get d = s.regs.get d := by
  obtain ⟨hregs, -⟩ := h.same
  exact hregs d (by simpa using hd)

theorem npc_eq (n : Nat) : npc s' n = npc s n := by
  rw [npc, h.pc_eq, npc]

theorem drawn_eq : s'.drawn = s.drawn := by
  obtain ⟨-, -, -, -, -, hfree, hdraws, -⟩ := h.same
  rw [State.drawn, hfree, hdraws, State.drawn]

theorem spOf_eq : spOf s' = spOf s := by
  rw [spOf, h.flag_eq, spOf]

theorem spOf_ne_ssp : spOf s ≠ .ssp := by
  rw [spOf_of_user h.user]
  decide

theorem resolve_eq (r : Reg) : resolve s' r = resolve s r := by
  cases r <;> simp only [resolve, h.spOf_eq]

theorem readReg_eq (r : Reg) : readReg s' r = readReg s r := by
  rw [readReg, h.resolve_eq, readReg]
  cases hd : resolve s r with
  | ok d => rw [Eff.bind_ok, Eff.bind_ok, h.get_eq (resolve_ne_ssp h.user hd)]
  | raise e => rfl
  | refuse q => rfl

theorem limitViolation_eq (k : AccessKind) (a : Word) (n : Nat) :
    limitViolation s' k a n = limitViolation s k a n := by
  obtain ⟨-, -, hflag, -, ⟨hlo, hhi, hrule⟩, -⟩ := h.same
  rw [limitViolation, hflag, hlo, hhi, hrule, limitViolation]

theorem checkWord_eq (k : AccessKind) (a : Word) : checkWord s' k a = checkWord s k a := by
  rw [checkWord, h.limitViolation_eq, checkWord]

theorem checkByte_eq (k : AccessKind) (a : Word) : checkByte s' k a = checkByte s k a := by
  rw [checkByte, h.limitViolation_eq, checkByte]

theorem read_eq {k : AccessKind} (hk : k ≠ .write) {n : Nat} (hn : s.reaches k n) : s'.mem.read n = s.mem.read n := by
  obtain ⟨-, -, -, -, -, -, -, -, hmem⟩ := h.same
  refine hmem n ?_
  cases k with
  | fetch => exact .inl hn
  | read => exact .inr hn
  | write => exact absurd rfl hk

theorem readWord_eq {k : AccessKind} (hk : k ≠ .write) (a : Word) : readWord s' k a = readWord s k a := by
  rw [readWord, h.checkWord_eq, readWord]
  cases hc : checkWord s k a with
  | ok u =>
    obtain ⟨ho, hv⟩ := checkWord_eq_ok.1 hc
    rw [Eff.bind_ok, Eff.bind_ok, loadWord, h.read_eq hk ⟨a, .inr ⟨ho, hv, .inl rfl⟩⟩,
      h.read_eq hk ⟨a, .inr ⟨ho, hv, .inr rfl⟩⟩, loadWord]
  | raise e => rfl
  | refuse q => rfl

theorem readByte_eq {k : AccessKind} (hk : k ≠ .write) (a : Word) : readByte s' k a = readByte s k a := by
  rw [readByte, h.checkByte_eq, readByte]
  cases hc : checkByte s k a with
  | ok u => rw [Eff.bind_ok, Eff.bind_ok, h.read_eq hk ⟨a, .inl ⟨checkByte_eq_ok.1 hc, rfl⟩⟩]
  | raise e => rfl
  | refuse q => rfl

theorem locAddr_eq (l : Loc) : locAddr s' l = locAddr s l := by
  cases l with
  | direct dsp => rfl
  | indexed dsp rx => rw [locAddr, h.readReg_eq, locAddr]
  | fpRel d4 => rw [locAddr, show s'.regs.fp = s.regs.fp from h.get_eq (d := .fp) (by decide), locAddr]
  | indirect rx => exact h.readReg_eq rx
  | byteIndirect rx => exact h.readReg_eq rx

theorem targetAddr_eq (tg : Target) : targetAddr s' tg = targetAddr s tg := by
  cases tg with
  | direct dsp => exact h.locAddr_eq (.direct dsp)
  | indexed dsp rx => exact h.locAddr_eq (.indexed dsp rx)
  | indirect rx => exact h.locAddr_eq (.indirect rx)

theorem operand_eq (m : Src) : operand s' m = operand s m := by
  cases m with
  | mem l => simp only [operand, readLoc, h.locAddr_eq, h.readWord_eq (k := .read) (by decide),
      h.readByte_eq (k := .read) (by decide)]
  | imm v => rfl
  | reg rs => exact h.readReg_eq rs
  | imm4 i4 => rfl

theorem operands_ok {rd : Reg} {m : Src} {o : Operands} (ho : operands s rd m = .ok o) :
    operands s' rd m = .ok o := by
  obtain ⟨hd, hb, ha⟩ := operands_eq_ok.1 ho
  exact operands_eq_ok.2 ⟨h.resolve_eq rd ▸ hd, h.operand_eq m ▸ hb, by rw [h.get_eq (resolve_ne_ssp h.user hd), ha]⟩

theorem pairOperands_ok {rd : Reg} {m : Src} {o : PairOperands} (ho : pairOperands s rd m = .ok o) :
    pairOperands s' rd m = .ok o := by
  obtain ⟨hd, hb, ha, hah⟩ := pairOperands_eq_ok.1 ho
  obtain ⟨-, hlo, hhi, -⟩ := pairOf_eq_ok hd
  exact pairOperands_eq_ok.2 ⟨hd, h.operand_eq m ▸ hb, by rw [h.get_eq hlo, ha], by rw [h.get_eq hhi, hah]⟩

/-! ## Updates that keep the two states in agreement -/

theorem goto (a : Word) : UserPair (s.goto a) (s'.goto a) := by
  obtain ⟨hp, hwf, hwf', hregs, -, hflag, hreq, hlim, hfree, hdraws, hirq, hmem⟩ := h
  exact ⟨hp, hwf, hwf', hregs, rfl, hflag, hreq, hlim, hfree, hdraws, hirq, hmem⟩

theorem setReg (d : Phys) (x : Word) : UserPair (s.setReg d x) (s'.setReg d x) := by
  obtain ⟨hp, hwf, hwf', hregs, hpc, hflag, hreq, hlim, hfree, hdraws, hirq, hmem⟩ := h
  refine ⟨hp, hwf, hwf', fun q hq => ?_, hpc, hflag, hreq, hlim, hfree, hdraws, hirq, hmem⟩
  rw [State.setReg_regs, State.setReg_regs, Regs.get_set, Regs.get_set, hregs q hq]

theorem setArith (f : Arith) : UserPair (s.setArith f) (s'.setArith f) := by
  obtain ⟨hp, hwf, hwf', hregs, hpc, hflag, hreq, hlim, hfree, hdraws, hirq, hmem⟩ := h
  refine ⟨hp, hwf, hwf', hregs, hpc, ?_, hreq, hlim, hfree, hdraws, hirq, hmem⟩
  rw [State.setArith_flag, hflag, State.setArith_flag]

theorem setFlag {f : Flag} (hf : f.p = false) : UserPair (s.setFlag f) (s'.setFlag f) := by
  obtain ⟨hp, hwf, hwf', hregs, hpc, hflag, hreq, hlim, hfree, hdraws, hirq, hmem⟩ := h
  refine ⟨hf, hwf, hwf', hregs, hpc, rfl, hreq, hlim, hfree, hdraws, hirq, fun n hn => hmem n ?_⟩
  simpa [State.reaches, State.allows, limitViolation, hp, hf] using hn

theorem afterDraw : UserPair s.afterDraw s'.afterDraw := by
  obtain ⟨hp, hwf, hwf', hregs, hpc, hflag, hreq, hlim, hfree, hdraws, hirq, hmem⟩ := h
  exact ⟨hp, hwf, hwf', hregs, hpc, hflag, hreq, hlim, congrArg List.tail hfree, congrArg (· + 1) hdraws, hirq, hmem⟩

theorem afterDraw_ite (draws : Bool) :
    UserPair (if draws then s.afterDraw else s) (if draws then s'.afterDraw else s') := by
  cases draws
  · exact h
  · exact h.afterDraw

/-- A byte written alike in both. -/
theorem setMem_write (a : Nat) (x : Byte) (ha : a < 65536) :
    UserPair (s.setMem (s.mem.write a x)) (s'.setMem (s'.mem.write a x)) := by
  obtain ⟨hp, hwf, hwf', hregs, hpc, hflag, hreq, hlim, hfree, hdraws, hirq, hmem⟩ := h
  refine ⟨hp, Memory.write_wf x hwf ha, Memory.write_wf x hwf' ha, hregs, hpc, hflag, hreq, hlim, hfree, hdraws, hirq,
    fun n hn => ?_⟩
  rw [State.setMem_mem, State.setMem_mem, Memory.read_write hwf', Memory.read_write hwf, hmem n hn]

theorem setMem_storeWord (a x : Word) :
    UserPair (s.setMem (storeWord s.mem a x)) (s'.setMem (storeWord s'.mem a x)) :=
  (h.setMem_write a.toNat (hiByte x) a.isLt).setMem_write (a + 1).toNat (loByte x) (a + 1).isLt

theorem finish {d : Phys} {r : Word} {f : Arith} {m : Src} :
    UserPair (finish s d r f m) (Machine.finish s' d r f m) := by
  have := (((h.setReg d r).setArith f).goto (npc s m.extraWords))
  rw [Machine.finish, Machine.finish, h.npc_eq]
  exact this

theorem finishPair {o : PairOperands} {lo hi : Word} {f : Arith} {m : Src} :
    UserPair (finishPair s o lo hi f m) (Machine.finishPair s' o lo hi f m) := by
  have := ((((h.setReg o.lo lo).setReg o.hi hi).setArith f).goto (npc s m.extraWords))
  rw [Machine.finishPair, Machine.finishPair, h.npc_eq]
  exact this

/-! ## Stores and the stack -/

theorem writeWord_ok {a x : Word} {m : Memory} (hw : writeWord s a x = .ok m) :
    ∃ m', writeWord s' a x = .ok m' ∧ UserPair (s.setMem m) (s'.setMem m') := by
  obtain ⟨ho, hv, hr, rfl⟩ := writeWord_eq_ok.1 hw
  exact ⟨_, writeWord_eq_ok.2 ⟨ho, h.limitViolation_eq .write a 2 ▸ hv, hr, rfl⟩, h.setMem_storeWord a x⟩

theorem writeLoc_ok {l : Loc} {x : Word} {m : Memory} (hw : writeLoc s l x = .ok m) :
    ∃ m', writeLoc s' l x = .ok m' ∧ UserPair (s.setMem m) (s'.setMem m') := by
  obtain ⟨a, ha, ⟨hl, hw⟩ | ⟨hl, hw⟩⟩ := writeLoc_eq_ok.1 hw
  · obtain ⟨m', hw', hpair⟩ := h.writeWord_ok hw
    exact ⟨m', writeLoc_eq_ok.2 ⟨a, h.locAddr_eq l ▸ ha, .inl ⟨hl, hw'⟩⟩, hpair⟩
  · obtain ⟨hv, hr, rfl⟩ := writeByte_eq_ok.1 hw
    exact ⟨_, writeLoc_eq_ok.2 ⟨a, h.locAddr_eq l ▸ ha, .inr ⟨hl,
      writeByte_eq_ok.2 ⟨h.limitViolation_eq .write a 1 ▸ hv, hr, rfl⟩⟩⟩, h.setMem_write a.toNat _ a.isLt⟩

theorem push_ok {x : Word} {u : State} (hu : push s x = .ok u) : ∃ u', push s' x = .ok u' ∧ UserPair u u' := by
  obtain ⟨m, hm, rfl⟩ := push_eq_ok.1 hu
  obtain ⟨m', hm', hpair⟩ := h.writeWord_ok hm
  have hsp := h.get_eq h.spOf_ne_ssp
  refine ⟨_, push_eq_ok.2 ⟨m', by rw [h.spOf_eq, hsp, hm'], rfl⟩, ?_⟩
  rw [h.spOf_eq, hsp]
  exact hpair.setReg (spOf s) _

theorem pop_ok {r : Word × State} (hr : pop s = .ok r) :
    ∃ u', pop s' = .ok (r.1, u') ∧ UserPair r.2 u' := by
  obtain ⟨x, u⟩ := r
  obtain ⟨hw, rfl⟩ := pop_eq_ok.1 hr
  have hsp := h.get_eq h.spOf_ne_ssp
  refine ⟨_, pop_eq_ok.2 ⟨by rw [h.spOf_eq, hsp, h.readWord_eq (by decide), hw], rfl⟩, ?_⟩
  rw [h.spOf_eq, hsp]
  exact h.setReg (spOf s) _

theorem returnFromTrap_ok {t : State} (ht : returnFromTrap s = .ok t) :
    ∃ t', returnFromTrap s' = .ok t' ∧ UserPair t t' := by
  obtain ⟨f, x, hf, hx, rfl⟩ := returnFromTrap_eq_ok.1 ht
  have hsp := h.get_eq h.spOf_ne_ssp
  refine ⟨_, returnFromTrap_eq_ok.2 ⟨f, x, by rw [h.spOf_eq, hsp, h.readWord_eq (by decide), hf],
    by rw [h.spOf_eq, hsp, h.readWord_eq (by decide), hx], rfl⟩, ?_⟩
  rw [h.spOf_eq, hsp, h.flag_eq]
  refine ((h.setReg (spOf s) _).setFlag ?_).goto x
  rw [flagAfterReti_of_user h.user]
  exact h.user

/-! ## Instructions and steps -/

/-- An instruction that ends in user mode without a trap does the same from both states. -/
theorem exec_ok {i : Instr} {t : State} (hx : exec i s = .next t) (ht : t.flag.p = false) :
    ∃ t', exec i s' = .next t' ∧ UserPair t t' := by
  have hno : ¬tookTrap s t := not_tookTrap ht
  have hpriv : ¬s.flag.p = true := by simp [h.user]
  cases kind i with
  | computes rd m draws g hi =>
    rw [hi] at hx ⊢
    obtain ⟨o, c, ho, hc, rfl⟩ := (computes_eq_next hx).resolve_left hno
    exact ⟨_, computes_of_ok (h.operands_ok ho) (h.drawn_eq ▸ hc), (h.afterDraw_ite draws).finish⟩
  | computesPair rd m g hi =>
    rw [hi] at hx ⊢
    obtain ⟨o, c, ho, hc, rfl⟩ := (computesPair_eq_next hx).resolve_left hno
    exact ⟨_, computesPair_of_ok (h.pairOperands_ok ho) (h.drawn_eq ▸ hc), h.afterDraw.finishPair⟩
  | jump cond tg hi =>
    rw [hi] at hx ⊢
    obtain ⟨a, ha, rfl⟩ := jumpWhen_eq_next hx
    refine ⟨_, jumpWhen_of_targetAddr (h.targetAddr_eq tg ▸ ha) _, ?_⟩
    rw [h.flag_eq, h.npc_eq]
    exact h.goto _
  | no =>
    cases exec_no s ▸ hx
    exact ⟨_, exec_no s', h.npc_eq 0 ▸ h.goto _⟩
  | ld rd m =>
    obtain ⟨d, v, hd, hv, rfl⟩ := (exec_ld_eq_next hx).resolve_left hno
    refine ⟨_, exec_ld_of_operand_ok (h.resolve_eq rd ▸ hd) (h.operand_eq m ▸ hv), ?_⟩
    rw [h.npc_eq]
    exact (h.setReg d v).goto _
  | ldFlag rd =>
    obtain ⟨d, hd, rfl⟩ := (exec_ldFlag_eq_next hx).resolve_left hno
    refine ⟨_, exec_ldFlag (h.resolve_eq rd ▸ hd), ?_⟩
    rw [h.npc_eq, h.flag_eq]
    exact (h.setReg d _).goto _
  | st rd l =>
    obtain ⟨d, m, hd, hm, rfl⟩ := (exec_st_eq_next hx).resolve_left hno
    obtain ⟨m', hm', hpair⟩ := h.writeLoc_ok hm
    rw [← h.get_eq (resolve_ne_ssp h.user hd)] at hm'
    refine ⟨_, exec_st_of_writeLoc_ok (h.resolve_eq rd ▸ hd) hm', ?_⟩
    rw [h.npc_eq]
    exact hpair.goto _
  | cmp rd m =>
    obtain ⟨o, ho, rfl⟩ := (exec_cmp_eq_next hx).resolve_left hno
    obtain ⟨hd, hb, ha⟩ := operands_eq_ok.1 (h.operands_ok ho)
    refine ⟨_, exec_cmp_of_operand_ok hd hb, ?_⟩
    rw [h.npc_eq, ← ha]
    exact (h.setArith _).goto _
  | call tg =>
    obtain ⟨a, u, ha, hu, rfl⟩ := (exec_call_eq_next hx).resolve_left hno
    obtain ⟨u', hu', hpair⟩ := h.push_ok hu
    refine ⟨u'.goto a, ?_, hpair.goto a⟩
    rw [exec_call_eq, execCall, h.targetAddr_eq, ha, Eff.bind_ok, h.npc_eq, hu', Eff.bind_ok, settle_ok]
  | push rd =>
    obtain ⟨d, u, hd, hu, rfl⟩ := (exec_push_eq_next hx).resolve_left hno
    obtain ⟨u', hu', hpair⟩ := h.push_ok hu
    refine ⟨u'.goto (npc s 0), ?_, hpair.goto _⟩
    rw [exec_push_eq, execPush, h.readReg_eq, readReg_of_resolve hd, Eff.bind_ok, hu', Eff.bind_ok, settle_ok,
      h.npc_eq]
  | pop rd =>
    obtain ⟨d, r, hd, hr, rfl⟩ := (exec_pop_eq_next hx).resolve_left hno
    obtain ⟨u', hu', hpair⟩ := h.pop_ok hr
    refine ⟨_, exec_pop_of_pop_ok (h.resolve_eq rd ▸ hd) hu', ?_⟩
    rw [h.npc_eq]
    exact (hpair.setReg d _).goto _
  | ret =>
    obtain ⟨r, hr, rfl⟩ := (exec_ret_eq_next hx).resolve_left hno
    obtain ⟨u', hu', hpair⟩ := h.pop_ok hr
    exact ⟨_, exec_ret_of_pop_ok hu', hpair.goto _⟩
  | reti =>
    obtain ⟨t', ht', hpair⟩ := h.returnFromTrap_ok ((exec_reti_eq_next hx).resolve_left hno)
    exact ⟨t', by rw [exec_reti_eq, ht', settle_ok], hpair⟩
  | svc => exact absurd ⟨.supervisorCall, hx⟩ hno
  | inp rd p => exact absurd ((exec_inp_eq_next hx).resolve_left hno).1 hpriv
  | out rd p => exact absurd ((exec_out_eq_next hx).resolve_left hno).1 hpriv
  | ei => exact absurd ((exec_ei_eq_next hx).resolve_left hno).1 hpriv
  | di => exact absurd ((exec_di_eq_next hx).resolve_left hno).1 hpriv
  | halt => exact absurd ((exec_halt_eq_next hx).resolve_left hno).1 hpriv

/-- The requests that arrive are the same, and the enable bits they meet. -/
theorem deliver : UserPair (deliver s) (Machine.deliver s') := by
  obtain ⟨hp, hwf, hwf', hregs, hpc, hflag, ⟨hhalt, hpend, harr⟩, hlim, hfree, hdraws, hirq, hmem⟩ := h
  unfold Machine.deliver
  rw [harr]
  cases s.arrivals with
  | nil => exact ⟨hp, hwf, hwf', hregs, hpc, hflag, ⟨hhalt, hpend, harr⟩, hlim, hfree, hdraws, hirq, hmem⟩
  | cons m rest =>
    refine ⟨hp, hwf, hwf', hregs, hpc, hflag, ⟨hhalt, ?_, rfl⟩, hlim, hfree, hdraws, hirq, hmem⟩
    simp only [hpend, hirq]

theorem acceptable_eq : acceptable s' = acceptable s := by
  obtain ⟨-, -, hflag, ⟨hhalt, hpend, -⟩, -⟩ := h.same
  rw [acceptable, hflag, hhalt, hpend, acceptable]

theorem fetchExecute_ok {t : State} (hx : fetchExecute s = .next t) (ht : t.flag.p = false) :
    ∃ t', fetchExecute s' = .next t' ∧ UserPair t t' := by
  rcases fetchExecute_eq_next hx with htrap | ⟨w1, w2, i, h1, hd, h2, -, hexec⟩
  · exact absurd htrap (not_tookTrap ht)
  · obtain ⟨t', hexec', hpair⟩ := h.exec_ok hexec ht
    have h1' : readWord s' .fetch s'.pc = .ok w1 := by rw [h.pc_eq, h.readWord_eq (by decide), h1]
    have h2' : i.extraWords = 0 ∨ readWord s' .fetch (s'.pc + 2) = .ok w2 := by
      rwa [h.pc_eq, h.readWord_eq (by decide)]
    exact ⟨t', by rw [fetchExecute_of_readWord h1', executeWord_of_decode hd h2', hexec'], hpair⟩

theorem step_ok {t : State} (hx : step s = .next t) (ht : t.flag.p = false) :
    ∃ t', step s' = .next t' ∧ UserPair t t' := by
  have hacc := h.deliver.acceptable_eq
  have hhalt : s'.halted = s.halted := by
    obtain ⟨-, -, -, ⟨hhalt, -⟩, -⟩ := h.same
    exact hhalt
  rcases step_cases s with ⟨k, -, hk⟩ | ⟨ha, hh, hi⟩ | ⟨ha, hh, hf⟩
  · obtain ⟨hp, -⟩ := acceptInterrupt_effect (hk ▸ hx)
    simp [ht] at hp
  · cases hi ▸ hx
    refine ⟨Machine.deliver s', ?_, h.deliver⟩
    rw [step, cycle, boundary, hacc, ha]
    simp [hhalt, hh]
  · obtain ⟨t', hf', hpair⟩ := h.deliver.fetchExecute_ok (hf ▸ hx) ht
    exact ⟨t', (step_of_executes ⟨hhalt.trans hh, hacc.trans ha⟩).trans hf', hpair⟩

end UserPair

end Sys2Proof.Machine

namespace Sys2Proof

open Sys2Proof.Machine

/-- Settles O58: two states in agreement step alike, by the case split over what the step executes. -/
theorem userStepLearnsNothing : Obligations.UserStepLearnsNothing := by
  intro s s' t hinv hinv' hp hsame hstep ht
  have hpair : UserPair s s' := ⟨hp, hinv, hinv', hsame⟩
  obtain ⟨t', hstep', hpair'⟩ := hpair.step_ok hstep ht
  exact ⟨t', hstep', hpair'.same⟩

end Sys2Proof
end

section
/-!
PROOF. Traps and the return from them (60_exceptions.md section 4, 46_system.md R192, R195). A trap entry is the state
`trapState`; what its two pushed words read as is said once. RETI is `returnFromTrap`, one equation per outcome of its
two reads.
-/

namespace Sys2Proof.Machine

/-! ## Trap entry -/

/-- The word under the pushed FLAG is the saved PC (60_exceptions.md R220). -/
theorem loadWord_trapMemory_saved {s : State} (h : s.mem.wf = true) (x : Word) :
    loadWord (trapMemory s x) (s.regs.ssp - 2) = x := by
  rw [trapMemory, loadWord_storeWord_of_ne _ _ _ _ (by bv_omega) (by bv_omega) (by bv_omega),
    loadWord_storeWord_same _ _ h]

/-- The word on top of the system stack is the old FLAG (60_exceptions.md R220). -/
theorem loadWord_trapMemory_flag {s : State} (h : s.mem.wf = true) (x : Word) :
    loadWord (trapMemory s x) (s.regs.ssp - 4) = s.flag.toWord :=
  loadWord_storeWord_same _ _ (storeWord_wf _ _ h)

theorem read_trapMemory_of_not_trapBytes {s : State} {n : Nat} (h : ¬s.trapBytes n) (x : Word) :
    (trapMemory s x).read n = s.mem.read n := by
  obtain ⟨h2, h4⟩ := not_or.1 h
  rw [trapMemory, read_storeWord_of_not_inWord _ _ h4, read_storeWord_of_not_inWord _ _ h2]

theorem trapEntry_of_canTrap {s : State} (h : s.canTrap) (v x : Word) : trapEntry s v x = .next (trapState s v x) :=
  trapEntry_next ((trapBlocked_eq_false_iff s).2 h) v x

theorem trapEntry_of_not_canTrap {s : State} (h : ¬s.canTrap) (v x : Word) : trapEntry s v x = .fault .trapEntry := by
  rw [← trapBlocked_eq_false_iff, Bool.not_eq_false] at h
  exact if_pos h

theorem npc_zero (s : State) : npc s 0 = s.pc + 2 := by
  simp [npc]

theorem npc_one (s : State) : npc s 1 = s.pc + 4 := by
  rw [npc, BitVec.add_assoc]
  rfl

/-! ## The return -/

theorem isOdd_add_two (a : Word) : isOdd (a + 2) = isOdd a := by
  rw [← isOdd_sub_two, BitVec.add_sub_cancel]

theorem readWord_of_canRead {s : State} {a : Word} (h : s.canRead a) : readWord s .read a = .ok (loadWord s.mem a) := by
  obtain ⟨ho, hv⟩ := h
  exact readWord_eq_ok.2 ⟨ho, hv, rfl⟩

/-- A read that cannot be made at an even address raises AddressLimitViolation (20_memory.md R53). -/
theorem readWord_of_not_allows {s : State} {a : Word} (ho : isOdd a = false) (hv : ¬s.allows .read a 2) :
    readWord s .read a = .raise .addressLimitViolation :=
  readWord_eq_raise.2 (checkWord_eq_raise.2 (.inr ⟨ho, State.not_allows_iff.1 hv, rfl⟩))

theorem readWord_of_isOdd {s : State} {a : Word} (ho : isOdd a = true) (k : AccessKind) :
    readWord s k a = .raise .invalidAddress :=
  readWord_eq_raise.2 (checkWord_eq_raise.2 (.inl ⟨ho, rfl⟩))

/-- RETI whose two words can be read (46_system.md R192). -/
theorem exec_reti_of_canRead {s : State} (h1 : s.canRead (s.regs.get (spOf s)))
    (h2 : s.canRead (s.regs.get (spOf s) + 2)) : exec .reti s =
      .next (((s.setReg (spOf s) (s.regs.get (spOf s) + 4)).setFlag
        (flagAfterReti s.flag (loadWord s.mem (s.regs.get (spOf s))))).goto
          (loadWord s.mem (s.regs.get (spOf s) + 2))) := by
  rw [exec_reti_eq, returnFromTrap_eq_ok.2 ⟨_, _, readWord_of_canRead h1, readWord_of_canRead h2, rfl⟩, settle_ok]

/-- RETI raises what its first read raises, or else what its second one does (46_system.md R192). -/
theorem exec_reti_of_raise {s : State} {e : Exc}
    (h : readWord s .read (s.regs.get (spOf s)) = .raise e ∨ s.canRead (s.regs.get (spOf s)) ∧
      readWord s .read (s.regs.get (spOf s) + 2) = .raise e) : exec .reti s = raiseExc s e := by
  rw [exec_reti_eq, returnFromTrap]
  rcases h with h | ⟨h1, h2⟩
  · rw [h, Eff.bind_raise, settle_raise]
  · rw [readWord_of_canRead h1, Eff.bind_ok, h2, Eff.bind_raise, settle_raise]

theorem canRead_of_priv {s : State} (hp : s.flag.p = true) {a : Word} (ho : isOdd a = false) : s.canRead a :=
  ⟨ho, limitViolation_of_priv hp .read a 2⟩

/-! ## FLAG as a word that was loaded -/

/-- The ten reserved bits are dropped (10_state.md R27). -/
theorem toWord_flagOfWord (w : Word) : (flagOfWord w).toWord = w &&& 0x00CF := by
  apply BitVec.eq_of_getLsbD_eq
  intro i hi
  rw [Flag.toWord_eq_concat]
  interval_cases i <;> simp [flagOfWord]

/-- E and P of the one, V, C, S and Z of the other (46_system.md R192). -/
theorem toWord_flagAfterReti_of_user (f : Flag) (w : Word) :
    Flag.toWord { flagOfWord w with e := f.e, p := f.p } = (f.toWord &&& 0x00C0) ||| (w &&& 0x000F) := by
  apply BitVec.eq_of_getLsbD_eq
  intro i hi
  rw [Flag.toWord_eq_concat, Flag.toWord_eq_concat]
  interval_cases i <;> simp [flagOfWord]

end Sys2Proof.Machine

namespace Sys2Proof

open Sys2Proof.Machine

/-- Settles O12: the state a trap entry leaves, field by field, and the words it pushed. -/
theorem trapEntryEffect : Obligations.TrapEntryEffect := by
  intro s v x hinv
  have hwf : s.mem.wf = true := hinv
  refine ⟨fun h => ?_, fun h => trapEntry_of_not_canTrap h v x⟩
  exact ⟨_, trapEntry_of_canTrap h v x, Regs.get_set_same s.regs .ssp _, s.sameRegsBut_setReg .ssp _, rfl, rfl,
    ⟨rfl, rfl, rfl, rfl⟩, loadWord_trapMemory_saved hwf x, loadWord_trapMemory_flag hwf x,
    fun n hn => read_trapMemory_of_not_trapBytes hn x, rfl, s.sameIo_refl, s.sameRequests_refl⟩

/-- Settles O13: each exception's arm of `raiseExc`; the five faults save the same drawn word. -/
theorem exceptionVectors : Obligations.ExceptionVectors := fun s =>
  ⟨congrArg (trapEntry s 0xFFFE) (npc_zero s), s.drawn.word, rfl, rfl, rfl, rfl, rfl⟩

/-- Settles O14: in privileged mode RETI reads the two words that the trap pushed. -/
theorem trapThenRetiReturns : Obligations.TrapThenRetiReturns := by
  intro s v x hinv hcan
  have hwf : s.mem.wf = true := hinv
  have hsp : (trapState s v x).regs.get (spOf (trapState s v x)) = s.regs.ssp - 4 := by
    rw [spOf_of_priv rfl]
    exact Regs.get_set_same s.regs .ssp _
  have hnext : s.regs.ssp - 4 + 2 = s.regs.ssp - 2 := by bv_omega
  have ho : isOdd (s.regs.ssp - 4) = false := by
    obtain ⟨ho, -⟩ := hcan
    rw [isOdd_sub_four, ho]
  refine ⟨_, _, trapEntry_of_canTrap hcan v x, exec_reti_of_canRead ?read1 ?read2, ?flag, ?regs, ?pc, s.sameIo_refl,
    s.sameRequests_refl, fun n hn => read_trapMemory_of_not_trapBytes hn x⟩
  case read1 =>
    rw [hsp]
    exact canRead_of_priv rfl ho
  case read2 =>
    rw [hsp]
    exact canRead_of_priv rfl ((isOdd_add_two _).trans ho)
  case flag =>
    rw [hsp]
    exact (flagAfterReti_of_priv (f := (trapState s v x).flag) rfl _).trans
      ((congrArg flagOfWord (loadWord_trapMemory_flag hwf x)).trans (flagOfWord_toWord s.flag))
  case regs =>
    rw [hsp, spOf_of_priv rfl, show s.regs.ssp - 4 + 4 = s.regs.get .ssp by rw [Regs.get_ssp]; bv_omega]
    exact (Regs.set_set_same s.regs .ssp _ _).trans (Regs.set_get_same s.regs .ssp)
  case pc =>
    rw [hsp, hnext]
    exact loadWord_trapMemory_saved hwf x

/-- Settles O45: RETI is its equation; its second address is odd exactly when its first one is. -/
theorem retiResult : Obligations.RetiResult := by
  intro s sp f
  refine ⟨fun h1 h2 => ?returns, fun ho => ?odd, fun ho hv => ?limit⟩
  case returns =>
    refine ⟨_, exec_reti_of_canRead h1 h2, rfl, Regs.get_set_same .., s.sameRegsBut_setReg _ _, s.sameMemory_refl,
      s.sameIo_refl, s.sameRequests_refl, fun hp => ?_, fun hp => ?_⟩
    · rw [State.goto_flag, State.setFlag_flag, flagAfterReti_of_priv hp, toWord_flagOfWord]
    · rw [State.goto_flag, State.setFlag_flag, flagAfterReti_of_user hp, toWord_flagAfterReti_of_user]
  case odd => exact exec_reti_of_raise (.inl (readWord_of_isOdd ho .read))
  case limit =>
    by_cases h1 : s.allows .read sp 2
    · exact exec_reti_of_raise (.inr ⟨⟨ho, h1⟩,
        readWord_of_not_allows ((isOdd_add_two sp).trans ho) (hv.resolve_left (not_not_intro h1))⟩)
    · exact exec_reti_of_raise (.inl (readWord_of_not_allows ho h1))

/-- Settles O47: SVC is a trap entry that saves the next address. -/
theorem supervisorCallTraps : Obligations.SupervisorCallTraps := by
  intro s hinv hcan
  have hwf : s.mem.wf = true := hinv
  refine ⟨trapState s 0xFFFE (npc s 0), ?_, Regs.get_set_same s.regs .ssp _, s.sameRegsBut_setReg .ssp _, ?_,
    loadWord_trapMemory_flag hwf _, rfl, rfl, fun n hn => read_trapMemory_of_not_trapBytes hn _, s.sameIo_refl,
    s.sameRequests_refl⟩
  · rw [exec_svc_eq]
    exact trapEntry_of_canTrap hcan _ _
  · exact (loadWord_trapMemory_saved hwf _).trans (npc_zero s)

/-- Settles O46: in privileged mode each of the three is its one update. -/
theorem interruptEnableAndHalt : Obligations.InterruptEnableAndHalt := by
  intro s hp
  have runs {q : PrivInstr} (t : State) : settle s ((checkPriv s q).bind fun _ => .ok t) = .next t := by
    rw [checkPriv_of_priv hp, Eff.bind_ok, settle_ok]
  exact ⟨⟨_, (exec_ei_eq s).trans (runs _), rfl, rfl, rfl, s.sameMemory_refl, s.sameIo_refl, s.sameRequests_refl⟩,
    ⟨_, (exec_di_eq s).trans (runs _), rfl, rfl, rfl, s.sameMemory_refl, s.sameIo_refl, s.sameRequests_refl⟩,
    ⟨_, (exec_halt_eq s).trans (runs _), rfl, rfl, rfl, rfl, s.sameMemory_refl, s.sameIo_refl, rfl, rfl⟩⟩

end Sys2Proof
end

section
/-!
PROOF. The limits, the registers and the operands (20_memory.md section 7, 10_state.md section 1, 30_encoding.md section
3).
-/

namespace Sys2Proof.Machine

/-! ## The default check -/

/-- An access of at least one byte lies outside the closed range when one of its bytes does (20_memory.md R62). -/
theorem outsideRange_iff {lo hi a : Word} {n : Nat} (hn : 1 ≤ n) :
    outsideRange lo hi a n = true ↔ ∃ j, j < n ∧ ¬(lo.toNat ≤ a.toNat + j ∧ a.toNat + j ≤ hi.toNat) := by
  rw [outsideRange, Bool.or_eq_true, decide_eq_true_iff, decide_eq_true_iff]
  constructor
  · rintro (h | h)
    · exact ⟨0, hn, by omega⟩
    · exact ⟨n - 1, by omega, by omega⟩
  · rintro ⟨j, hj, h⟩
    omega

theorem limitViolation_iff_of_closedRange {s : State} (hp : s.flag.p = false) (hr : s.protectRule = .closedRange)
    (k : AccessKind) (a : Word) {n : Nat} (hn : 1 ≤ n) :
    limitViolation s k a n = true ↔ ∃ j, j < n ∧ ¬s.inLimits (a.toNat + j) := by
  rw [limitViolation_closedRange hp hr, outsideRange_iff hn]
  rfl

theorem allows_iff_of_closedRange {s : State} (hp : s.flag.p = false) (hr : s.protectRule = .closedRange)
    (k : AccessKind) (a : Word) {n : Nat} (hn : 1 ≤ n) :
    s.allows k a n ↔ ∀ j, j < n → s.inLimits (a.toNat + j) := by
  rw [State.allows, ← Bool.not_eq_true, limitViolation_iff_of_closedRange hp hr k a hn]
  push Not
  rfl

/-- The second byte of a word at an even address lies at the next number. -/
theorem toNat_add_one_of_even {a : Word} (ho : isOdd a = false) : (a + 1).toNat = a.toNat + 1 := by
  rw [isOdd_eq, decide_eq_false_iff_not] at ho
  have := a.isLt
  simp only [BitVec.toNat_add, BitVec.ofNat_eq_ofNat, BitVec.toNat_ofNat]
  omega

/-- Under the default check the bytes reached are those of the range (20_memory.md R62). -/
theorem reaches_iff_of_closedRange {s : State} (hp : s.flag.p = false) (hr : s.protectRule = .closedRange)
    (k : AccessKind) (n : Nat) : s.reaches k n ↔ s.inLimits n := by
  constructor
  · rintro ⟨a, ⟨hv, rfl⟩ | ⟨ho, hv, rfl | rfl⟩⟩
    · exact (allows_iff_of_closedRange hp hr k a (Nat.le_refl 1)).1 hv 0 (by omega)
    · exact (allows_iff_of_closedRange hp hr k a (n := 2) (by omega)).1 hv 0 (by omega)
    · rw [toNat_add_one_of_even ho]
      exact (allows_iff_of_closedRange hp hr k a (n := 2) (by omega)).1 hv 1 (by omega)
  · intro h
    have hlt : n < 65536 := by
      obtain ⟨-, hhi⟩ := h
      have := s.limitHi.isLt
      omega
    have hn : (BitVec.ofNat 16 n).toNat = n := by
      rw [BitVec.toNat_ofNat]
      exact Nat.mod_eq_of_lt hlt
    refine ⟨BitVec.ofNat 16 n, .inl ⟨(allows_iff_of_closedRange hp hr k _ (Nat.le_refl 1)).2 fun j hj => ?_, hn.symm⟩⟩
    rw [hn, Nat.lt_one_iff.1 hj]
    exact h

/-! ## Extensions of short fields -/

theorem toInt_sextNibble (n : Nibble) : (sextNibble n).toInt = n.toInt :=
  BitVec.toInt_signExtend_of_le (by omega)

theorem toNat_zextByte (b : Byte) : (zextByte b).toNat = b.toNat := by
  rw [zextByte, BitVec.toNat_setWidth]
  have := b.isLt
  omega

/-- Twice the sign-extended field, modulo 2^16 (30_encoding.md R85). -/
theorem toNat_dispNibble_add (n : Nibble) (w : Word) :
    ((dispNibble n + w).toNat : Int) = (2 * n.toInt + w.toNat) % 65536 := by
  have hd : ((dispNibble n).toNat : Int) = (2 * n.toInt) % 65536 := by
    revert n
    decide
  rw [BitVec.toNat_add]
  omega

/-! ## Operands -/

section

variable {s : State} {l : Loc} {a : Word} (ha : locAddr s l = .ok a)

include ha

theorem operand_of_word (hl : Loc.width l = .word) : operand s (.mem l) = readWord s .read a := by
  rw [operand, readLoc, ha, Eff.bind_ok, hl]

theorem operand_of_byte (hl : Loc.width l = .byte) :
    operand s (.mem l) = (readByte s .read a).bind fun b => .ok (zextByte b) := by
  rw [operand, readLoc, ha, Eff.bind_ok, hl]

end

end Sys2Proof.Machine

namespace Sys2Proof

open Sys2Proof.Machine

/-- Settles O18: privileged mode is never checked; the default check is the closed range. -/
theorem limitCheckDefault : Obligations.LimitCheckDefault := fun _ k a n =>
  ⟨fun hp => limitViolation_of_priv hp k a n, fun hp hr =>
    ⟨limitViolation_iff_of_closedRange hp hr k a, reaches_iff_of_closedRange hp hr k n⟩⟩

/-- Settles O19: each mode's equation, its sum as a number modulo 2^16. -/
theorem effectiveAddresses : Obligations.EffectiveAddresses := by
  intro s dsp d4 rx x hx
  refine ⟨rfl, rfl, ⟨dsp + x, ?indexed, BitVec.toNat_add dsp x⟩, rfl, ⟨_, rfl, toNat_dispNibble_add d4 s.regs.fp⟩, rfl,
    hx, rfl, hx, rfl⟩
  case indexed => rw [locAddr, hx, Eff.bind_ok]

/-- Settles O20: a location's operand is the read at its address, the other operands are their equations. -/
theorem operandOfEachMode : Obligations.OperandOfEachMode := by
  intro s l a v rs p i4 ha hp
  refine ⟨fun hl hr => ?word, fun hl ho => ?odd, fun hl ho hv => ?limit, fun hl hv => ?byte,
    fun hl hv => ?byteLimit, rfl,
    readReg_of_resolve hp, _, rfl, toInt_sextNibble i4⟩
  case word => rw [operand_of_word ha hl, readWord_of_canRead hr]
  case odd => rw [operand_of_word ha hl, readWord_of_isOdd ho]
  case limit => rw [operand_of_word ha hl, readWord_of_not_allows ho hv]
  case byte =>
    refine ⟨zextByte (s.mem.read a.toNat), ?_, toNat_zextByte _⟩
    rw [operand_of_byte ha hl, readByte_eq_ok.2 ⟨hv, rfl⟩, Eff.bind_ok]
  case byteLimit =>
    rw [operand_of_byte ha hl, readByte_eq_raise.2 (checkByte_eq_raise.2 ⟨State.not_allows_iff.1 hv, rfl⟩),
      Eff.bind_raise]

/-- Settles O21: the table of register numbers; D is the stack pointer of the mode. -/
theorem registerNumbers : Obligations.RegisterNumbers := by
  intro s
  refine ⟨rfl, rfl, rfl, rfl, rfl, rfl, rfl, rfl, rfl, rfl, rfl, rfl, rfl, fun hp => ?_, fun hp => ?_, rfl, rfl⟩
  · exact congrArg Eff.ok (spOf_of_priv hp)
  · exact congrArg Eff.ok (spOf_of_user hp)

/-- Settles O23: the sums modulo 2^16. -/
theorem nextAddress : Obligations.NextAddress := fun s => by
  rw [npc_zero, npc_one]
  exact ⟨BitVec.toNat_add s.pc 2, BitVec.toNat_add s.pc 4⟩

end Sys2Proof
end

section
/-!
PROOF. The stack (44_jump_call.md R176, 45_io_stack.md R183, R184, 46_system.md R191): CALL and PUSH are one `push`,
whose outcomes are those of the write at SP - 2; a `pop` of the word just pushed gives it back.
-/

namespace Sys2Proof.Machine

/-! ## A push and the pop after it -/

/-- The state after a push that could be made (20_memory.md R57). -/
def pushed (s : State) (x : Word) : State :=
  (s.setReg (spOf s) (s.regs.get (spOf s) - 2)).setMem (storeWord s.mem (s.regs.get (spOf s) - 2) x)

theorem push_of_canWrite {s : State} (h : s.canWrite (s.regs.get (spOf s) - 2)) (x : Word) :
    push s x = .ok (pushed s x) := by
  obtain ⟨ho, hv, hr⟩ := h
  exact push_eq_ok.2 ⟨_, writeWord_eq_ok.2 ⟨ho, hv, hr, rfl⟩, rfl⟩

theorem push_of_raise {s : State} {x : Word} {e : Exc}
    (h : checkWord s .write (s.regs.get (spOf s) - 2) = .raise e) : push s x = .raise e := by
  rw [push, writeWord_eq_raise.2 h, Eff.bind_raise]

theorem push_of_rom {s : State} {x : Word} (ho : isOdd (s.regs.get (spOf s) - 2) = false)
    (hv : s.allows .write (s.regs.get (spOf s) - 2) 2) (hr : inRom (s.regs.get (spOf s) - 2) = true) :
    push s x = .refuse .romWrite := by
  rw [push, writeWord_eq_refuse.2 ⟨ho, hv, hr, rfl⟩, Eff.bind_refuse]

theorem get_spOf_pushed (s : State) (x : Word) : (pushed s x).regs.get (spOf s) = s.regs.get (spOf s) - 2 :=
  Regs.get_set_same s.regs (spOf s) _

/-- What an instruction that ends in a push comes to, whatever it goes to afterwards. -/
theorem exec_of_push {s : State} {i : Instr} {x next : Word}
    (hi : exec i s = settle s ((push s x).bind fun u => .ok (u.goto next))) :
    (s.canWrite (s.regs.get (spOf s) - 2) → exec i s = .next ((pushed s x).goto next)) ∧
      (∀ e, checkWord s .write (s.regs.get (spOf s) - 2) = .raise e → exec i s = raiseExc s e) ∧
      (isOdd (s.regs.get (spOf s) - 2) = false → s.allows .write (s.regs.get (spOf s) - 2) 2 →
        inRom (s.regs.get (spOf s) - 2) = true → exec i s = .refused .romWrite) := by
  refine ⟨fun h => ?_, fun e h => ?_, fun ho hv hr => ?_⟩
  · rw [hi, push_of_canWrite h, Eff.bind_ok, settle_ok]
  · rw [hi, push_of_raise h, Eff.bind_raise, settle_raise]
  · rw [hi, push_of_rom ho hv hr, Eff.bind_refuse, settle_refuse]

theorem exec_call_of_targetAddr {s : State} {tg : Target} {a : Word} (ha : targetAddr s tg = .ok a) :
    exec (.call tg) s = settle s ((push s (npc s tg.extraWords)).bind fun u => .ok (u.goto a)) := by
  rw [exec_call_eq, execCall, ha, Eff.bind_ok]

theorem exec_push_of_resolve {s : State} {rd : Reg} {d : Phys} (hd : resolve s rd = .ok d) :
    exec (.push rd) s = settle s ((push s (s.regs.get d)).bind fun u => .ok (u.goto (npc s 0))) := by
  rw [exec_push_eq, execPush, readReg_of_resolve hd, Eff.bind_ok]

/-- The word just pushed is popped again, and SP is back where it was (20_memory.md R57). -/
theorem pop_pushed {s : State} (hinv : s.Inv) (hr : s.canRead (s.regs.get (spOf s) - 2)) (x a : Word) :
    pop ((pushed s x).goto a) =
      .ok (x, ((pushed s x).goto a).setReg (spOf s) (s.regs.get (spOf s))) := by
  have hwf : s.mem.wf = true := hinv
  have hsp : ((pushed s x).goto a).regs.get (spOf ((pushed s x).goto a)) = s.regs.get (spOf s) - 2 :=
    get_spOf_pushed s x
  have hval : loadWord ((pushed s x).goto a).mem (s.regs.get (spOf s) - 2) = x :=
    loadWord_storeWord_same _ _ hwf
  have hpop := pop_of_canRead (s := (pushed s x).goto a) (by rw [hsp]; exact hr)
  rw [hsp, hval, BitVec.sub_add_cancel] at hpop
  exact hpop

theorem pushed_regs_set (s : State) (x : Word) :
    (pushed s x).regs.set (spOf s) (s.regs.get (spOf s)) = s.regs :=
  (Regs.set_set_same s.regs (spOf s) _ _).trans (Regs.set_get_same s.regs (spOf s))

end Sys2Proof.Machine

namespace Sys2Proof

open Sys2Proof.Machine

/-- Settles O37: both instructions are one push, made, raised or refused. -/
theorem callAndPush : Obligations.CallAndPush := by
  intro s hinv sp stores
  have hwf : s.mem.wf = true := hinv
  have key {i : Instr} {x next : Word} (hi : exec i s = settle s ((push s x).bind fun u => .ok (u.goto next))) :
      stores i x next := by
    obtain ⟨made, raised, refused⟩ := exec_of_push hi
    refine ⟨fun h => ?_, fun ho => ?_, fun ho hv => ?_, fun ho hv hr => ?_⟩
    · obtain ⟨harith, hsys, hregs, hmem⟩ := push_keeps (push_of_canWrite h x) next
      exact ⟨_, made h, rfl, loadWord_storeWord_same _ _ hwf, get_spOf_pushed s x, hregs, hmem, harith, hsys⟩
    · exact raised _ (checkWord_eq_raise.2 (.inl ⟨(isOdd_sub_two sp).trans ho, rfl⟩))
    · exact raised _ (checkWord_eq_raise.2 (.inr ⟨(isOdd_sub_two sp).trans ho, State.not_allows_iff.1 hv, rfl⟩))
    · exact refused ((isOdd_sub_two sp).trans ho) hv hr
  exact ⟨fun tg a ha => key (exec_call_of_targetAddr ha), fun rd d hd => key (exec_push_of_resolve hd)⟩

/-- Settles O39: RET pops the word that CALL pushed. -/
theorem callThenRetReturns : Obligations.CallThenRetReturns := by
  intro s tg a hinv ha hw hr
  obtain ⟨made, -⟩ := exec_of_push (exec_call_of_targetAddr ha)
  exact ⟨_, _, made hw, exec_ret_of_pop_ok (pop_pushed hinv hr _ a), rfl,
    pushed_regs_set s (npc s tg.extraWords), rfl⟩

/-- Settles O40: POP pops the word that PUSH pushed, and writes Rd after SP. -/
theorem pushThenPopCopies : Obligations.PushThenPopCopies := by
  intro s rs rd p d hinv hp hd hw hr
  obtain ⟨made, -⟩ := exec_of_push (exec_push_of_resolve hp)
  have hd' : resolve ((pushed s (s.regs.get p)).goto (npc s 0)) rd = .ok d := by
    cases rd <;> exact hd
  refine ⟨_, _, made hw, exec_pop_of_pop_ok hd' (pop_pushed hinv hr _ _), ?_, rfl⟩
  exact congrArg (·.set d (s.regs.get p)) (pushed_regs_set s (s.regs.get p))

end Sys2Proof
end

section
/-!
PROOF. ADD, SUB, AND, OR, XOR, ADDS and the shifts (41_arith_logic.md, 43_shift.md). Each is its computation in the
course `computes`; the end of that course is said once, and each result and flag is a fact about words.
-/

namespace Sys2Proof.Machine

/-! ## S and Z, carry and overflow -/

theorem signOf_iff (r : Word) : signOf r = true ↔ 32768 ≤ r.toNat := by
  rw [signOf, BitVec.msb_eq_decide, decide_eq_true_iff]

theorem zeroOf_iff (r : Word) : zeroOf r = true ↔ r = 0 := beq_iff_eq

/-- V of a sum is the overflow of the signed sum (41_arith_logic.md R131). -/
theorem addFlags_v_iff (a b : Word) :
    (addFlags a b).v = true ↔ a.toInt + b.toInt < -32768 ∨ 32767 < a.toInt + b.toInt := by
  rw [addFlags, Bool.and_eq_true, beq_iff_eq, bne_iff_ne]
  simp only [BitVec.msb_eq_decide, BitVec.toInt_eq_toNat_cond, BitVec.toNat_add, decide_eq_decide, ne_eq]
  have := a.isLt
  have := b.isLt
  split <;> split <;> omega

/-- V of a difference is the overflow of the signed difference (41_arith_logic.md R132). -/
theorem subFlags_v_iff_overflow (a b : Word) :
    (subFlags a b).v = true ↔ a.toInt - b.toInt < -32768 ∨ 32767 < a.toInt - b.toInt := by
  rw [subFlags_v_iff]
  simp only [BitVec.msb_eq_decide, BitVec.toInt_eq_toNat_cond, BitVec.toNat_sub, decide_eq_decide, ne_eq]
  have := a.isLt
  have := b.isLt
  split <;> split <;> omega

theorem toNat_addsResult (a b : Word) : (addsResult a b).toNat = (a.toNat + 2 * b.toNat) % 65536 := by
  rw [addsResult, BitVec.toNat_add, BitVec.toNat_shiftLeft, Nat.shiftLeft_eq]
  omega

/-- An arithmetic right shift divides by a power of two, rounding down (43_shift.md R153). -/
theorem toInt_sshiftRight_eq (a : Word) (n : Nat) : (a.sshiftRight n).toInt = a.toInt / 2 ^ n := by
  rw [BitVec.toInt_sshiftRight, Int.shiftRight_eq_div_pow]
  rfl

/-! ## The end of the course -/

section

variable {s : State} {rd : Reg} {m : Src} {d : Phys} {b : Word} {draws : Bool}
  {g : FreeValues → Word → Word → Eff Computed} {c : Computed}

/-- An instruction that computes `c` leaves its result in Rd and its flags, and changes nothing else but PC. -/
theorem computes_done (hd : resolve s rd = .ok d) (hb : operand s m = .ok b)
    (hc : g s.drawn (s.regs.get d) b = .ok c) :
    ∃ t, computes rd m draws g s = .next t ∧ t.regs.get d = c.result ∧ t.flag.v = c.flags.v ∧ t.flag.c = c.flags.c ∧
      t.flag.s = c.flags.s ∧ t.flag.z = c.flags.z ∧ t.pc = npc s m.extraWords ∧ s.changesOnly t [d] := by
  refine ⟨_, computes_of_ok (operands_of_resolve_of_operand hd hb) hc, Regs.get_set_same .., rfl, rfl, rfl, rfl, ?_,
    finish_changesOnly s draws d c.result c.flags m⟩
  cases draws <;> rfl

/-- The same for flags S and Z that are those of the result. -/
theorem computes_done_sz (hd : resolve s rd = .ok d) (hb : operand s m = .ok b)
    (hc : g s.drawn (s.regs.get d) b = .ok c) (hs : c.flags.s = signOf c.result) (hz : c.flags.z = zeroOf c.result) :
    ∃ t, computes rd m draws g s = .next t ∧ t.regs.get d = c.result ∧
      (t.flag.s = true ↔ 32768 ≤ (t.regs.get d).toNat) ∧ (t.flag.z = true ↔ t.regs.get d = 0) ∧
      t.pc = npc s m.extraWords ∧ s.changesOnly t [d] := by
  obtain ⟨t, ht, hr, -, -, hts, htz, hpc, hrest⟩ := computes_done (draws := draws) hd hb hc
  refine ⟨t, ht, hr, ?_, ?_, hpc, hrest⟩
  · rw [hts, hs, hr, signOf_iff]
  · rw [htz, hz, hr, zeroOf_iff]

theorem shifted_of_le {shift : Word → Nat → Word} {f : FreeValues} {a n : Word} (hn : n.toNat ≤ 15) :
    shifted shift f a n = .ok { result := shift a n.toNat, flags := shiftFlags (shift a n.toNat) f.flags } :=
  if_neg (by omega)

theorem shifted_of_lt {shift : Word → Nat → Word} {f : FreeValues} {a n : Word} (hn : 16 ≤ n.toNat) :
    shifted shift f a n = .refuse .shiftCount :=
  if_pos (by omega)

end

end Sys2Proof.Machine

namespace Sys2Proof

open Sys2Proof.Machine

/-- Settles O26: sum and difference modulo 2^16, C and V as facts about the exact ones. -/
theorem addAndSubResults : Obligations.AddAndSubResults := by
  intro s rd m d b hd hb a done
  refine ⟨?add, ?sub⟩
  case add =>
    obtain ⟨t, ht, hr, hv, hc, hs, hz, hpc, hrest⟩ := computes_done (draws := false)
      (g := fun _ a b => .ok { result := a + b, flags := addFlags a b }) hd hb rfl
    refine ⟨t, (exec_add_eq rd m s).trans ht, ?_, ?_, ?_, ?_, ?_, hpc, hrest⟩
    · rw [hr, BitVec.toNat_add]
      rfl
    · rw [hc]
      exact decide_eq_true_iff
    · rw [hv, addFlags_v_iff]
    · rw [hs, hr, ← signOf_iff]
      rfl
    · rw [hz, hr, ← zeroOf_iff]
      rfl
  case sub =>
    obtain ⟨t, ht, hr, hv, hc, hs, hz, hpc, hrest⟩ := computes_done (draws := false)
      (g := fun _ a b => .ok { result := a - b, flags := subFlags a b }) hd hb rfl
    refine ⟨t, (exec_sub_eq rd m s).trans ht, ?_, ?_, ?_, ?_, ?_, hpc, hrest⟩
    · rw [hr, show s.regs.get d = a from rfl, BitVec.toNat_sub]
      have := b.isLt
      omega
    · rw [hc, subFlags_c_iff]
    · rw [hv, subFlags_v_iff_overflow]
    · rw [hs, hr, ← signOf_iff]
      rfl
    · rw [hz, hr, ← zeroOf_iff]
      rfl

/-- Settles O28: the bitwise operations bit by bit. -/
theorem logicResults : Obligations.LogicResults := by
  intro s rd m d b hd hb a done
  have combines {i : Instr} {op : Word → Word → Word} {bit : Bool → Bool → Bool}
      (hi : exec i s = computes rd m true (combined op) s)
      (hbit : ∀ n, (op a b).getLsbD n = bit (a.getLsbD n) (b.getLsbD n)) : done i bit := by
    obtain ⟨t, ht, hr, hs, hz, hpc, hrest⟩ := computes_done_sz (draws := true) (g := combined op) hd hb rfl rfl rfl
    exact ⟨t, hi.trans ht, fun n _ => by rw [hr]; exact hbit n, hs, hz, hpc, hrest⟩
  exact ⟨combines (exec_and_eq rd m s) fun _ => BitVec.getLsbD_and,
    combines (exec_or_eq rd m s) fun _ => BitVec.getLsbD_or,
    combines (exec_xor_eq rd m s) fun _ => BitVec.getLsbD_xor⟩

/-- Settles O29: the operand is added twice. -/
theorem addScaledResult : Obligations.AddScaledResult := by
  intro s rd m d b hd hb
  obtain ⟨t, ht, hr, hs, hz, hpc, hrest⟩ := computes_done_sz (draws := true)
    (g := fun f a b => .ok { result := addsResult a b, flags := addsFlags (addsResult a b) f.flags }) hd hb rfl rfl rfl
  exact ⟨t, (exec_adds_eq rd m s).trans ht, by rw [hr, toNat_addsResult], hs, hz, hpc, hrest⟩

/-- Settles O34: a count up to 15 computes, a larger one is refused; the four shifts as arithmetic. -/
theorem shiftResults : Obligations.ShiftResults := by
  intro s rd m d n hd hn a done
  have shifts {i : Instr} {shift : Word → Nat → Word} (result : Word → Prop)
      (hi : exec i s = computes rd m true (shifted shift) s) (hres : result (shift a n.toNat)) : done i result := by
    refine ⟨fun hle => ?_, fun hlt => ?_⟩
    · obtain ⟨t, ht, hr, hs, hz, hpc, hrest⟩ := computes_done_sz (draws := true) hd hn
        (shifted_of_le (shift := shift) hle) rfl rfl
      exact ⟨t, hi.trans ht, hr ▸ hres, hs, hz, hpc, hrest⟩
    · exact hi.trans (computes_of_refuse (operands_of_resolve_of_operand hd hn) (shifted_of_lt hlt))
  have left : (a <<< n.toNat).toNat = a.toNat * 2 ^ n.toNat % 65536 := by
    rw [BitVec.toNat_shiftLeft, Nat.shiftLeft_eq]
  have right : (a >>> n.toNat).toNat = a.toNat / 2 ^ n.toNat := by
    rw [BitVec.toNat_ushiftRight, Nat.shiftRight_eq_div_pow]
  exact ⟨shifts (fun r => r.toNat = a.toNat * 2 ^ n.toNat % 65536) (exec_shla_eq rd m s) left,
    shifts (fun r => r.toNat = a.toNat * 2 ^ n.toNat % 65536) (exec_shll_eq rd m s) left,
    shifts (fun r => r.toInt = a.toInt / 2 ^ n.toNat) (exec_shra_eq rd m s) (toInt_sshiftRight_eq a n.toNat),
    shifts (fun r => r.toNat = a.toNat / 2 ^ n.toNat) (exec_shrl_eq rd m s) right⟩

end Sys2Proof
end

section
/-!
PROOF. MUL, MULL, DIV, MOD and DIVL (42_mul_div.md). The words of each result are read as numbers, unsigned and signed;
the two readings come from the laws that write each result as one choice on `Config.divSigned`.
-/

namespace Sys2Proof.Machine

/-! ## Words and double words as numbers -/

theorem toInt_ofInt_of_bounds {x : Int} (h1 : -32768 ≤ x) (h2 : x ≤ 32767) : (BitVec.ofInt 16 x).toInt = x := by
  rw [BitVec.toInt_ofInt, Int.bmod_def]
  split <;> omega

theorem toInt_bounds (a : Word) : -32768 ≤ a.toInt ∧ a.toInt ≤ 32767 := by
  have := a.isLt
  rw [BitVec.toInt_eq_toNat_cond]
  split <;> omega

/-- A 32-bit number from its two words (42_mul_div.md R144). -/
theorem toNat_words (p : BitVec 32) :
    65536 * (p.extractLsb' 16 16).toNat + (p.extractLsb' 0 16).toNat = p.toNat := by
  have := p.isLt
  simp only [BitVec.extractLsb'_toNat, Nat.shiftRight_eq_div_pow]
  omega

/-- The sign of a 32-bit number is that of its high word (42_mul_div.md R144). -/
theorem toInt_words (p : BitVec 32) :
    65536 * (p.extractLsb' 16 16).toInt + (p.extractLsb' 0 16).toNat = p.toInt := by
  have := p.isLt
  rw [BitVec.toInt_eq_toNat_cond, BitVec.toInt_eq_toNat_cond]
  simp only [BitVec.extractLsb'_toNat, Nat.shiftRight_eq_div_pow]
  split <;> split <;> omega

theorem dividend_words (p : BitVec 32) : dividend (p.extractLsb' 16 16) (p.extractLsb' 0 16) = p := by
  apply BitVec.eq_of_toNat_eq
  rw [dividend, BitVec.toNat_append, ← Nat.shiftLeft_add_eq_or_of_lt (BitVec.isLt _), Nat.shiftLeft_eq, ← toNat_words p]
  omega

theorem toNat_dividend (hi lo : Word) : (dividend hi lo).toNat = 65536 * hi.toNat + lo.toNat := by
  rw [dividend, BitVec.toNat_append, ← Nat.shiftLeft_add_eq_or_of_lt lo.isLt, Nat.shiftLeft_eq]
  omega

theorem toInt_dividend (hi lo : Word) : (dividend hi lo).toInt = 65536 * hi.toInt + lo.toNat := by
  have := hi.isLt
  have := lo.isLt
  rw [BitVec.toInt_eq_toNat_cond, BitVec.toInt_eq_toNat_cond, toNat_dividend]
  split <;> split <;> omega

/-! ## Products -/

theorem toNat_unsignedProduct (a b : Word) : (unsignedProduct a b).toNat = a.toNat * b.toNat := by
  have h : a.toNat * b.toNat < 2 ^ 32 := by
    calc a.toNat * b.toNat < 2 ^ 16 * 2 ^ 16 := Nat.mul_lt_mul'' a.isLt b.isLt
      _ = 2 ^ 32 := rfl
  rw [unsignedProduct, BitVec.toNat_ofNat, Nat.mod_eq_of_lt h]

theorem toInt_signedProduct (a b : Word) : (signedProduct a b).toInt = a.toInt * b.toInt := by
  have hle : a.toInt * b.toInt ≤ 2 ^ 30 := BitVec.toInt_mul_toInt_le
  have hge : -2 ^ 30 ≤ a.toInt * b.toInt := by
    have := @BitVec.le_toInt_mul_toInt 16 a b
    omega
  rw [signedProduct, BitVec.toInt_ofInt, Int.bmod_def]
  split <;> omega

theorem toNat_product (h : Config.divSigned = false) (a b : Word) : (product a b).toNat = a.toNat * b.toNat := by
  rw [product_eq, h, if_neg Bool.false_ne_true, toNat_unsignedProduct]

theorem toInt_product (h : Config.divSigned = true) (a b : Word) : (product a b).toInt = a.toInt * b.toInt := by
  rw [product_eq, if_pos h, toInt_signedProduct]

/-! ## Quotients and remainders -/

theorem toNat_quotient (h : Config.divSigned = false) (a b f : Word) :
    (quotient a b f).toNat = a.toNat / b.toNat := by
  have hle := Nat.div_le_self a.toNat b.toNat
  rw [quotient_eq, h, if_neg Bool.false_ne_true, unsignedQuotient, BitVec.toNat_ofNat]
  exact Nat.mod_eq_of_lt (lt_of_le_of_lt hle a.isLt)

theorem toNat_remainder (h : Config.divSigned = false) (a b : Word) :
    (remainder a b).toNat = a.toNat % b.toNat := by
  have hle := Nat.mod_le a.toNat b.toNat
  have := a.isLt
  rw [remainder_eq, h, if_neg Bool.false_ne_true, unsignedRemainder, BitVec.toNat_ofNat]
  omega

/-- Only -32768 / -1 does not fit (42_mul_div.md R142). -/
theorem toInt_quotient (h : Config.divSigned = true) {a b : Word} (f : Word)
    (hab : ¬(a.toInt = -32768 ∧ b.toInt = -1)) : (quotient a b f).toInt = a.toInt.tdiv b.toInt := by
  have hne : a ≠ BitVec.intMin 16 ∨ b ≠ -1#16 := by
    rw [← not_and_or]
    rintro ⟨rfl, rfl⟩
    exact hab ⟨rfl, rfl⟩
  have hne' : ¬(a = 0x8000 ∧ b = 0xFFFF) := not_and_or.2 hne
  rw [quotient_eq, if_pos h, signedQuotient, if_neg hne', ← BitVec.toInt_sdiv_of_ne_or_ne a b hne, BitVec.ofInt_toInt]

theorem toInt_remainder (h : Config.divSigned = true) (a b : Word) :
    (remainder a b).toInt = a.toInt.tmod b.toInt := by
  rw [remainder_eq, if_pos h, signedRemainder, ← BitVec.toInt_srem, BitVec.ofInt_toInt]

/-! ## DIVL -/

/-- The unsigned quotient fits exactly when the high word is below the divisor (42_mul_div.md R145). -/
theorem longDivide_unsigned (h : Config.divSigned = false) (n : BitVec 32) (b : Word) :
    longDivide n b = if n.toNat / b.toNat < 65536 then
      some { quot := BitVec.ofNat 16 (n.toNat / b.toNat), rem := BitVec.ofNat 16 (n.toNat % b.toNat) } else none := by
  rw [longDivide_eq, h, if_neg Bool.false_ne_true, unsignedLong]

theorem longDivide_signed (h : Config.divSigned = true) (n : BitVec 32) (b : Word) :
    longDivide n b = if -32768 ≤ n.toInt.tdiv b.toInt ∧ n.toInt.tdiv b.toInt ≤ 32767 then
      some { quot := BitVec.ofInt 16 (n.toInt.tdiv b.toInt), rem := BitVec.ofInt 16 (n.toInt.tmod b.toInt) }
    else none := by
  rw [longDivide_eq, if_pos h, signedLong]

theorem toNat_ne_zero {b : Word} (hb : b ≠ 0) : b.toNat ≠ 0 := fun h => hb (BitVec.eq_of_toNat_eq h)

theorem toInt_ne_zero {b : Word} (hb : b ≠ 0) : b.toInt ≠ 0 := fun h => hb (BitVec.eq_of_toInt_eq h)

theorem div_lt_iff_hi_lt {hi lo b : Word} (hb : b ≠ 0) :
    (65536 * hi.toNat + lo.toNat) / b.toNat < 65536 ↔ hi.toNat < b.toNat := by
  have := lo.isLt
  rw [Nat.div_lt_iff_lt_mul (Nat.pos_of_ne_zero (toNat_ne_zero hb))]
  omega

/-- A signed remainder is smaller than the divisor, so it fits in a word. -/
theorem toInt_ofInt_tmod (n : Int) {b : Word} (hb : b ≠ 0) :
    (BitVec.ofInt 16 (n.tmod b.toInt)).toInt = n.tmod b.toInt := by
  have hlt : (n.tmod b.toInt).natAbs < b.toInt.natAbs := by
    rw [Int.natAbs_tmod]
    exact Nat.mod_lt _ (Int.natAbs_pos.2 (toInt_ne_zero hb))
  obtain ⟨h1, h2⟩ := toInt_bounds b
  exact toInt_ofInt_of_bounds (by omega) (by omega)

section

variable {s : State} {rd : Reg} {m : Src} {lo hi : Phys} {b : Word}

theorem pairOperands_of_pairOf (hd : pairOf rd = .ok (lo, hi)) (hb : operand s m = .ok b) :
    pairOperands s rd m = .ok { lo := lo, hi := hi, a := s.regs.get lo, aHi := s.regs.get hi, b := b } :=
  pairOperands_eq_ok.2 ⟨hd, hb, rfl, rfl⟩

/-- A pair instruction that computes `c` leaves its two words in the pair and changes nothing else but flags and PC. -/
theorem computesPair_done {g : FreeValues → Word → Word → Word → Eff ComputedPair} {c : ComputedPair}
    (hd : pairOf rd = .ok (lo, hi)) (hb : operand s m = .ok b)
    (hc : g s.drawn (s.regs.get hi) (s.regs.get lo) b = .ok c) :
    ∃ t, computesPair rd m g s = .next t ∧ t.regs.get lo = c.lo ∧ t.regs.get hi = c.hi ∧
      t.pc = npc s m.extraWords ∧ s.changesOnly t [lo, hi] := by
  obtain ⟨hne, -⟩ := pairOf_eq_ok hd
  refine ⟨_, computesPair_of_ok (pairOperands_of_pairOf hd hb) hc, ?_, Regs.get_set_same .., rfl,
    finishPair_changesOnly s _ c.lo c.hi c.flags m⟩
  exact (Regs.get_set_of_ne _ hi lo _ hne).trans (Regs.get_set_same ..)

theorem dividedLong_of_some {f : FreeValues} {aHi a : Word} {r : LongResult} (hb : b ≠ 0)
    (hr : longDivide (dividend aHi a) b = some r) :
    dividedLong f aHi a b = .ok { lo := r.quot, hi := r.rem, flags := mulDivFlags f.flags } := by
  rw [dividedLong, if_neg hb, hr]

theorem dividedLong_of_none {f : FreeValues} {aHi a : Word} (hb : b ≠ 0)
    (hr : longDivide (dividend aHi a) b = none) : dividedLong f aHi a b = .refuse .quotientOverflow := by
  rw [dividedLong, if_neg hb, hr]

theorem divided_of_ne_zero {q : FreeValues → Word → Word → Word} {f : FreeValues} {a : Word} (hb : b ≠ 0) :
    divided q f a b = .ok { result := q f a b, flags := mulDivFlags f.flags } := if_neg hb

theorem divided_of_zero {q : FreeValues → Word → Word → Word} {f : FreeValues} {a : Word} :
    divided q f a 0 = .raise .zeroDivide := if_pos rfl

end

/-- Dividing a product by its second factor gives back the first, in either reading (42_mul_div.md R145). -/
theorem longDivide_product (a : Word) {b : Word} (hb : b ≠ 0) :
    longDivide (product a b) b = some { quot := a, rem := 0 } := by
  cases hs : Config.divSigned with
  | false =>
    have hpos := Nat.pos_of_ne_zero (toNat_ne_zero hb)
    rw [longDivide_unsigned hs, toNat_product hs, Nat.mul_div_cancel _ hpos, Nat.mul_mod_left, if_pos a.isLt,
      BitVec.ofNat_toNat, BitVec.setWidth_eq]
    rfl
  | true =>
    rw [longDivide_signed hs, toInt_product hs, Int.mul_tdiv_cancel _ (toInt_ne_zero hb), Int.mul_tmod_left,
      if_pos (toInt_bounds a), BitVec.ofInt_toInt]
    rfl

end Sys2Proof.Machine

namespace Sys2Proof

open Sys2Proof.Machine

/-- Settles O30: the low word of the product, and both words of it. -/
theorem multiplyResults : Obligations.MultiplyResults := by
  intro s rd m b hb
  refine ⟨fun d hd => ?mul, ?mull⟩
  case mul =>
    obtain ⟨t, ht, hr, -, -, -, -, hpc, hrest⟩ := computes_done (draws := true)
      (g := fun f a b => .ok { result := a * b, flags := mulDivFlags f.flags }) hd hb rfl
    exact ⟨t, (exec_mul_eq rd m s).trans ht, by rw [hr, BitVec.toNat_mul], hpc, hrest⟩
  case mull =>
    intro lo hi hd a
    obtain ⟨t, ht, hlo, hhi, hpc, hrest⟩ := computesPair_done (g := multipliedLong) hd hb rfl
    refine ⟨t, (exec_mull_eq rd m s).trans ht, fun hs => ?_, fun hs => ?_, hpc, hrest⟩
    · rw [hlo, hhi, toNat_words, toNat_product hs]
    · rw [hlo, hhi, toInt_words, toInt_product hs]

/-- Settles O31: the zero divisor raises; else quotient and remainder in the reading of DIV_SIGNED. -/
theorem divideAndModulo : Obligations.DivideAndModulo := by
  intro s rd m d b hd hb a
  refine ⟨?zero, fun hne => ⟨?div, ?mod⟩⟩
  case zero =>
    rintro rfl
    have ho := operands_of_resolve_of_operand hd hb
    exact ⟨(exec_div_eq rd m s).trans (computes_of_raise ho divided_of_zero),
      (exec_mod_eq rd m s).trans (computes_of_raise ho divided_of_zero)⟩
  case div =>
    obtain ⟨t, ht, hr, -, -, -, -, hpc, hrest⟩ := computes_done (draws := true) hd hb
      (divided_of_ne_zero (q := fun f a b => quotient a b f.word) hne)
    exact ⟨t, (exec_div_eq rd m s).trans ht, fun hs => by rw [hr, toNat_quotient hs],
      fun hs hab => by rw [hr, toInt_quotient hs _ hab], hpc, hrest⟩
  case mod =>
    obtain ⟨t, ht, hr, -, -, -, -, hpc, hrest⟩ := computes_done (draws := true) hd hb
      (divided_of_ne_zero (q := fun _ a b => remainder a b) hne)
    exact ⟨t, (exec_mod_eq rd m s).trans ht, fun hs => by rw [hr, toNat_remainder hs],
      fun hs => by rw [hr, toInt_remainder hs], hpc, hrest⟩

/-- Settles O32: where the quotient fits, quotient and remainder as numbers; where not, the refusal. -/
theorem divideLong : Obligations.DivideLong := by
  intro s rd m lo hi b hd hb n i done refused
  have ho := pairOperands_of_pairOf hd hb
  have completes {r : LongResult} {result : State → Prop} (hne : b ≠ 0)
      (hr : longDivide (dividend (s.regs.get hi) (s.regs.get lo)) b = some r)
      (hres : ∀ t : State, t.regs.get lo = r.quot → t.regs.get hi = r.rem → result t) : done result := by
    obtain ⟨t, ht, hlo, hhi, hpc, hrest⟩ := computesPair_done hd hb (dividedLong_of_some hne hr)
    exact ⟨t, (exec_divl_eq rd m s).trans ht, hres t hlo hhi, hpc, hrest⟩
  have refuses (hne : b ≠ 0) (hr : longDivide (dividend (s.regs.get hi) (s.regs.get lo)) b = none) : refused :=
    (exec_divl_eq rd m s).trans (computesPair_of_refuse ho (dividedLong_of_none hne hr))
  refine ⟨?zero, fun hne hs => ?unsigned, fun hne hs => ?signed⟩
  case zero =>
    rintro rfl
    exact (exec_divl_eq rd m s).trans (computesPair_of_raise ho (if_pos rfl))
  case unsigned =>
    have hlong := longDivide_unsigned hs (dividend (s.regs.get hi) (s.regs.get lo)) b
    rw [toNat_dividend] at hlong
    refine ⟨fun hlt => ?_, fun hge => refuses hne (by
      rw [hlong, if_neg ((div_lt_iff_hi_lt hne).not.2 (not_lt.2 hge))])⟩
    rw [if_pos ((div_lt_iff_hi_lt hne).2 hlt)] at hlong
    refine completes hne hlong fun t hlo hhi => ?_
    have hq : n / b.toNat < 65536 := (div_lt_iff_hi_lt hne).2 hlt
    have hm : n % b.toNat < b.toNat := Nat.mod_lt _ (Nat.pos_of_ne_zero (toNat_ne_zero hne))
    rw [hlo, hhi, BitVec.toNat_ofNat, BitVec.toNat_ofNat]
    exact ⟨Nat.mod_eq_of_lt hq, Nat.mod_eq_of_lt (hm.trans b.isLt)⟩
  case signed =>
    have hlong := longDivide_signed hs (dividend (s.regs.get hi) (s.regs.get lo)) b
    rw [toInt_dividend] at hlong
    refine ⟨fun hfit => ?_, fun hno => refuses hne (by rw [hlong, if_neg hno])⟩
    rw [if_pos hfit] at hlong
    refine completes hne hlong fun t hlo hhi => ?_
    rw [hlo, hhi]
    exact ⟨toInt_ofInt_of_bounds hfit.1 hfit.2, toInt_ofInt_tmod i hne⟩

/-- Settles O33: DIVL divides the product that MULL left. -/
theorem divideLongUndoesMultiplyLong : Obligations.DivideLongUndoesMultiplyLong := by
  intro s rd m m' lo hi b hd hb hne
  obtain ⟨t, ht, hlo, hhi, -⟩ := computesPair_done (g := multipliedLong) hd hb rfl
  refine ⟨t, (exec_mull_eq rd m s).trans ht, fun hb' => ?_⟩
  have hlong : longDivide (dividend (t.regs.get hi) (t.regs.get lo)) b =
      some { quot := s.regs.get lo, rem := 0 } := by
    rw [hlo, hhi, dividend_words, longDivide_product _ hne]
  obtain ⟨u, hu, hulo, huhi, -⟩ := computesPair_done hd hb' (dividedLong_of_some hne hlong)
  exact ⟨u, (exec_divl_eq rd m' t).trans hu, hulo, huhi⟩

end Sys2Proof
end

section
/-!
PROOF. IN and OUT (45_io_stack.md, 60_exceptions.md section 7). Each port byte is a mask of what the device delivers; a
word is its two port bytes, so a fact about a word comes from one about each of its bytes.
-/

namespace Sys2Proof.Machine

/-! ## The bytes of a word -/

theorem toNat_hiByte (w : Word) : (hiByte w).toNat = w.toNat / 256 := by
  have := w.isLt
  rw [hiByte, BitVec.extractLsb'_toNat, Nat.shiftRight_eq_div_pow]
  omega

theorem toNat_loByte (w : Word) : (loByte w).toNat = w.toNat % 256 := BitVec.extractLsb'_toNat ..

theorem joinBytes_and_joinBytes (h l h' l' : Byte) :
    joinBytes h l &&& joinBytes h' l' = joinBytes (h &&& h') (l &&& l') := by
  apply BitVec.eq_of_getLsbD_eq
  intro i _
  simp only [joinBytes, BitVec.getLsbD_append, BitVec.getLsbD_and]
  split <;> rfl

theorem joinBytes_or_joinBytes (h l h' l' : Byte) :
    joinBytes h l ||| joinBytes h' l' = joinBytes (h ||| h') (l ||| l') := by
  apply BitVec.eq_of_getLsbD_eq
  intro i _
  simp only [joinBytes, BitVec.getLsbD_append, BitVec.getLsbD_or]
  split <;> rfl

theorem zextByte_eq_joinBytes (b : Byte) : zextByte b = joinBytes 0 b := by
  apply BitVec.eq_of_toNat_eq
  rw [toNat_zextByte, toNat_joinBytes]
  exact (Nat.zero_add _).symm

theorem and_low (w : Word) : w &&& 0x00FF = joinBytes 0 (loByte w) := by
  conv_lhs => rw [← joinBytes_hi_lo w]
  rw [show (0x00FF : Word) = joinBytes 0 (BitVec.allOnes 8) from rfl, joinBytes_and_joinBytes, BitVec.and_allOnes]
  rw [show hiByte w &&& 0 = 0 from BitVec.and_zero]

theorem and_high (w : Word) : w &&& 0xFF00 = joinBytes (hiByte w) 0 := by
  conv_lhs => rw [← joinBytes_hi_lo w]
  rw [show (0xFF00 : Word) = joinBytes (BitVec.allOnes 8) 0 from rfl, joinBytes_and_joinBytes, BitVec.and_allOnes]
  rw [show loByte w &&& 0 = 0 from BitVec.and_zero]

theorem shiftLeft_byte (w : Word) : w <<< 8 = joinBytes (loByte w) 0 := by
  apply BitVec.eq_of_toNat_eq
  rw [BitVec.toNat_shiftLeft, toNat_joinBytes, toNat_loByte, Nat.shiftLeft_eq]
  show _ = _ + 0
  omega

/-- A byte written to the even address of a 16-bit register replaces bits 15..8 (60_exceptions.md R241). -/
theorem joinBytes_lo_lo (v w : Word) : joinBytes (loByte v) (loByte w) = v <<< 8 ||| (w &&& 0x00FF) := by
  rw [shiftLeft_byte, and_low, joinBytes_or_joinBytes]
  exact congrArg₂ joinBytes BitVec.or_zero.symm BitVec.zero_or.symm

/-- A byte written to the odd address replaces bits 7..0. -/
theorem joinBytes_hiByte_loByte (w v : Word) :
    joinBytes (hiByte w) (loByte v) = (w &&& 0xFF00) ||| (v &&& 0x00FF) := by
  rw [and_high, and_low, joinBytes_or_joinBytes]
  exact congrArg₂ joinBytes BitVec.or_zero.symm BitVec.zero_or.symm

/-- The two bytes of a word, written one after the other, replace the register. -/
theorem joinBytes_of_two_writes (v : Word) (l : Byte) :
    joinBytes (hiByte (joinBytes (hiByte v) l)) (loByte v) = v := by
  rw [hiByte_joinBytes, joinBytes_hi_lo]

/-! ## What a port byte delivers -/

theorem portByte_of_ne {a : Byte} (h : a ≠ 0x1F) (m : BoardMode) (r : Byte) :
    portByte m a r = r &&& portMask a := if_neg h

/-- The code of the board's mode lies within the mode port's mask, so a mask bounds every port (60_exceptions.md R248).
-/
theorem portByte_and_portMask (m : BoardMode) (a r : Byte) : portByte m a r &&& portMask a = portByte m a r := by
  by_cases h : a = 0x1F
  · have hmode : portByte m a r = m.code := if_pos h
    rw [hmode, h]
    cases m <;> rfl
  · rw [portByte_of_ne h, BitVec.and_assoc, BitVec.and_self]

theorem portByte_and_eq_zero {a k : Byte} (h : portMask a &&& k = 0) (m : BoardMode) (r : Byte) :
    portByte m a r &&& k = 0 := by
  rw [← portByte_and_portMask, BitVec.and_assoc, h]
  exact BitVec.and_zero

theorem portByte_of_mask_zero {a : Byte} (h : portMask a = 0) (m : BoardMode) (r : Byte) : portByte m a r = 0 := by
  rw [← portByte_and_portMask, h]
  exact BitVec.and_zero

theorem portByte_of_mask_ones {a : Byte} (h : portMask a = 0xFF) (m : BoardMode) (r : Byte) : portByte m a r = r := by
  have hne : a ≠ 0x1F := by
    rintro rfl
    exact absurd h (by decide)
  rw [portByte_of_ne hne, h]
  exact BitVec.and_allOnes

section

variable {a : Byte} {k : Word} (m : BoardMode) (raw : Word)

theorem inValue_byte : inValue m a .byte raw = joinBytes 0 (portByte m a (loByte raw)) := zextByte_eq_joinBytes _

theorem inValue_word :
    inValue m a .word raw = joinBytes (portByte m a (hiByte raw)) (portByte m (a + 1) (loByte raw)) := rfl

theorem inValue_byte_of_mask_zero (h : portMask a = 0) : inValue m a .byte raw = 0 := by
  rw [inValue_byte, portByte_of_mask_zero h]
  rfl

theorem inValue_byte_of_mask_ones (h : portMask a = 0xFF) : inValue m a .byte raw = raw &&& 0x00FF := by
  rw [inValue_byte, portByte_of_mask_ones h, and_low]

theorem inValue_byte_and (h : portMask a &&& loByte k = 0) : inValue m a .byte raw &&& k = 0 := by
  rw [inValue_byte, ← joinBytes_hi_lo k, joinBytes_and_joinBytes, portByte_and_eq_zero h]
  exact congrArg (joinBytes · 0) BitVec.zero_and

theorem inValue_word_and (hh : portMask a &&& hiByte k = 0) (hl : portMask (a + 1) &&& loByte k = 0) :
    inValue m a .word raw &&& k = 0 := by
  rw [inValue_word, ← joinBytes_hi_lo k, joinBytes_and_joinBytes, portByte_and_eq_zero hh, portByte_and_eq_zero hl]
  rfl

/-- An 8-bit port read as a word. -/
theorem inValue_word_of_low (hh : portMask a = 0) (hl : portMask (a + 1) = 0xFF) :
    inValue m a .word raw = raw &&& 0x00FF := by
  rw [inValue_word, portByte_of_mask_zero hh, portByte_of_mask_ones hl, and_low]

theorem inValue_word_of_ones (hh : portMask a = 0xFF) (hl : portMask (a + 1) = 0xFF) : inValue m a .word raw = raw := by
  rw [inValue_word, portByte_of_mask_ones hh, portByte_of_mask_ones hl, joinBytes_hi_lo]

end

/-- The timers, the µSD addresses, and the free and reserved ports deliver every bit (60_exceptions.md R241, R252). -/
theorem portMask_eq_ones {a : Byte}
    (h : a.toNat ≤ 0x07 ∨ 0x12 ≤ a.toNat ∧ a.toNat ≤ 0x17 ∨ 0x2E ≤ a.toNat ∧ a.toNat ≤ 0xFB) : portMask a = 0xFF := by
  unfold portMask
  split
  case h_26 => rfl
  all_goals omega

theorem mod_two_of_setWidth_even {a : Byte} (h : isOdd (a.setWidth 16) = false) : a.toNat % 2 = 0 := by
  have hz : (a.setWidth 16).toNat = a.toNat := toNat_zextByte a
  rw [isOdd_eq, hz, decide_eq_false_iff_not] at h
  omega

theorem toNat_succ_of_even {a : Byte} (h : a.toNat % 2 = 0) : (a + 1).toNat = a.toNat + 1 := by
  have := a.isLt
  rw [BitVec.toNat_add]
  show (a.toNat + 1) % 256 = _
  omega

/-- The mode port delivers the code of the board's mode, by word and by byte (60_exceptions.md R248). -/
theorem toNat_inValue_modePort (m : BoardMode) (raw : Word) :
    (inValue m 0x1E .word raw).toNat = m.code.toNat ∧ (inValue m 0x1F .byte raw).toNat = m.code.toNat := by
  have hmode (r : Byte) : portByte m 0x1F r = m.code := if_pos rfl
  constructor
  · rw [inValue_word, portByte_of_mask_zero rfl, toNat_joinBytes]
    exact (Nat.zero_add _).trans (congrArg _ (hmode _))
  · rw [inValue_byte, hmode, toNat_joinBytes]
    exact Nat.zero_add _

/-! ## The port of an operand -/

section

variable {s : State} {p : Port} {e : Word}

theorem hiByte_eq_zero_iff (e : Word) : hiByte e = 0 ↔ e.toNat < 256 := by
  rw [← BitVec.toNat_inj, toNat_hiByte]
  show _ = 0 ↔ _
  omega

theorem portAddr_of_high (he : portEa s p = .ok e) (h : 256 ≤ e.toNat) : portAddr s p = .refuse .ioAddress := by
  rw [portAddr, he, Eff.bind_ok, portOf, if_pos ((hiByte_eq_zero_iff e).not.2 (not_lt.2 h))]

theorem portAddr_of_odd_word (he : portEa s p = .ok e) (h : e.toNat < 256) (hw : Port.width p = .word)
    (ho : isOdd e = true) : portAddr s p = .refuse .ioOddWord := by
  rw [portAddr, he, Eff.bind_ok, portOf, if_neg (not_not.2 ((hiByte_eq_zero_iff e).2 h)), if_pos ⟨hw, ho⟩]

theorem portAddr_of_low (he : portEa s p = .ok e) (h : e.toNat < 256) (ho : Port.width p = .word → isOdd e = false) :
    portAddr s p = .ok (loByte e) := by
  have hn : ¬(Port.width p = .word ∧ isOdd e = true) := fun hc => Bool.noConfusion ((ho hc.1).symm.trans hc.2)
  rw [portAddr, he, Eff.bind_ok, portOf, if_neg (not_not.2 ((hiByte_eq_zero_iff e).2 h)), if_neg hn]

end

/-! ## The course of IN and OUT in privileged mode -/

section

variable {s : State} {rd : Reg} {p : Port} {d : Phys} {a : Byte} {r : Refusal} (hp : s.flag.p = true)
  (hd : resolve s rd = .ok d)

include hp hd

theorem exec_inp_of_portAddr (ha : portAddr s p = .ok a) :
    exec (.inp rd p) s =
      .next (((ioReadState s a (Port.width p)).setReg d (ioReadValue s a (Port.width p))).goto
        (npc s p.extraWords)) := by
  rw [exec_inp_eq, execInp, checkPriv_of_priv hp, Eff.bind_ok, hd, Eff.bind_ok, ha, Eff.bind_ok, settle_ok]

theorem exec_inp_of_refuse (ha : portAddr s p = .refuse r) : exec (.inp rd p) s = .refused r := by
  rw [exec_inp_eq, execInp, checkPriv_of_priv hp, Eff.bind_ok, hd, Eff.bind_ok, ha, Eff.bind_refuse, settle_refuse]

theorem exec_out_of_ioWrite {u : State} (ha : portAddr s p = .ok a)
    (hu : ioWrite s a (Port.width p) (s.regs.get d) = .ok u) :
    exec (.out rd p) s = .next (u.goto (npc s p.extraWords)) := by
  rw [exec_out_eq, execOut, checkPriv_of_priv hp, Eff.bind_ok, readReg_of_resolve hd, Eff.bind_ok, ha, Eff.bind_ok, hu,
    Eff.bind_ok, settle_ok]

theorem exec_out_of_refuse (ha : portAddr s p = .refuse r) : exec (.out rd p) s = .refused r := by
  rw [exec_out_eq, execOut, checkPriv_of_priv hp, Eff.bind_ok, readReg_of_resolve hd, Eff.bind_ok, ha, Eff.bind_refuse,
    settle_refuse]

theorem exec_out_of_ioWrite_refuse (ha : portAddr s p = .ok a)
    (hu : ioWrite s a (Port.width p) (s.regs.get d) = .refuse r) : exec (.out rd p) s = .refused r := by
  rw [exec_out_eq, execOut, checkPriv_of_priv hp, Eff.bind_ok, readReg_of_resolve hd, Eff.bind_ok, ha, Eff.bind_ok, hu,
    Eff.bind_refuse, settle_refuse]

end

/-! ## What an OUT reaches -/

/-- Only a byte to a limit port is refused (60_exceptions.md R249). -/
theorem ioWrite_limit_byte {a : Byte} (h : 0xF4 ≤ a.toNat ∧ a.toNat ≤ 0xF7) (s : State) (v : Word) :
    ioWrite s a .byte v = .refuse .limitByteOut := if_pos h

theorem exists_ioWrite {a : Byte} {w : Width} (h : w = .byte → ¬(0xF4 ≤ a.toNat ∧ a.toNat ≤ 0xF7)) (s : State)
    (v : Word) : ∃ u, ioWrite s a w v = .ok u := by
  by_cases hl : 0xF4 ≤ a.toNat ∧ a.toNat ≤ 0xF7
  · cases w with
    | byte => exact absurd hl (h rfl)
    | word => exact ⟨_, if_pos hl⟩
  · exact ⟨_, if_neg hl⟩

theorem ioRecord_value (a : Byte) (w : Width) (v : Word) :
    (w = .word → (ioRecord a w v).value = v) ∧ (w = .byte → (ioRecord a w v).value.toNat = v.toNat % 256) := by
  refine ⟨?word, ?byte⟩
  case word =>
    rintro rfl
    rfl
  case byte =>
    rintro rfl
    exact (toNat_zextByte _).trans (toNat_loByte v)

/-- The limits and the device registers after an OUT, by port (60_exceptions.md R249, R252). -/
theorem ioWrite_limits {s u : State} {a : Byte} {w : Width} {v : Word} (h : ioWrite s a w v = .ok u) :
    (0xF4 ≤ a.toNat ∧ a.toNat < 0xF6 → u.limitLo = v ∧ u.limitHi = s.limitHi ∧ u.dev = s.dev) ∧
      (0xF6 ≤ a.toNat ∧ a.toNat ≤ 0xF7 → u.limitHi = v ∧ u.limitLo = s.limitLo ∧ u.dev = s.dev) ∧
      (¬(0xF4 ≤ a.toNat ∧ a.toNat ≤ 0xF7) → u.limitLo = s.limitLo ∧ u.limitHi = s.limitHi ∧
        u.dev = devWrite s.dev a w v) := by
  rcases ioWrite_eq_ok h with ⟨rfl, -, hlo⟩ | ⟨rfl, -, hhi⟩ | ⟨rfl, hno⟩
  · exact ⟨fun _ => ⟨rfl, rfl, rfl⟩, fun _ => by omega, fun _ => by omega⟩
  · exact ⟨fun _ => by omega, fun _ => ⟨rfl, rfl, rfl⟩, fun _ => by omega⟩
  · exact ⟨fun _ => by omega, fun _ => by omega, fun _ => ⟨rfl, rfl, rfl⟩⟩

/-- An input-only, free or reserved port keeps nothing (60_exceptions.md R241, R252). -/
theorem devWriteByte_of_unmapped {a : Byte}
    (h : 0x1E ≤ a.toNat ∧ a.toNat ≤ 0x27 ∨ 0x2E ≤ a.toNat ∧ a.toNat ≤ 0xF3 ∨ 0xFA ≤ a.toNat) (d : Devices) (x : Byte) :
    devWriteByte d a x = d := by
  unfold devWriteByte
  split
  case h_28 => rfl
  all_goals omega

theorem devWrite_word (d : Devices) (a : Byte) (v : Word) :
    devWrite d a .word v = devWriteByte (devWriteByte d a (hiByte v)) (a + 1) (loByte v) := rfl

theorem devWrite_byte (d : Devices) (a : Byte) (v : Word) : devWrite d a .byte v = devWriteByte d a (loByte v) := rfl

theorem devWrite_word_of_unmapped {a : Byte}
    (h : 0x1E ≤ a.toNat ∧ a.toNat ≤ 0x26 ∨ 0x2E ≤ a.toNat ∧ a.toNat ≤ 0xF3 ∨ 0xFA ≤ a.toNat)
    (he : isOdd (a.setWidth 16) = false) (d : Devices) (v : Word) : devWrite d a .word v = d := by
  have heven := mod_two_of_setWidth_even he
  have hsucc := toNat_succ_of_even heven
  rw [devWrite_word, devWriteByte_of_unmapped (by omega), devWriteByte_of_unmapped (by omega)]

/-- The even byte of an 8-bit output port keeps nothing (60_exceptions.md R241). -/
theorem devWriteByte_of_even_byte {a : Byte}
    (h : a ∈ [0x08, 0x0A, 0x0C, 0x0E, 0x10, 0x18, 0x1A, 0x1C, 0x28, 0x2A, (0x2C : Byte)]) (d : Devices) (x : Byte) :
    devWriteByte d a x = d := by
  simp only [List.mem_cons, List.not_mem_nil, or_false] at h
  rcases h with rfl | rfl | rfl | rfl | rfl | rfl | rfl | rfl | rfl | rfl | rfl <;> rfl

end Sys2Proof.Machine

namespace Sys2Proof

open Sys2Proof.Machine

/-- Settles O41: the value is the next free one as the port shows it. -/
theorem inResult : Obligations.InResult := by
  intro s rd p d e hp hd he
  refine ⟨fun h => exec_inp_of_refuse hp hd (portAddr_of_high he h),
    fun h hw ho => exec_inp_of_refuse hp hd (portAddr_of_odd_word he h hw ho), fun h ho => ?_⟩
  obtain ⟨hregs, hmem, hflag, hreq, hlim, hout, hmode, hirq⟩ := ioReadState_frame s (loByte e) (Port.width p) d
    (ioReadValue s (loByte e) (Port.width p)) (npc s p.extraWords)
  refine ⟨_, s.drawn.word, exec_inp_of_portAddr hp hd (portAddr_of_low he h ho), Regs.get_set_same .., fun hport => ?_,
    hregs, fun n => congrArg (·.read n) hmem, hflag, hreq, hlim, hout, hmode, hirq, rfl⟩
  have hval := toNat_inValue_modePort s.dev.mode s.drawn.word
  have hcode : (ioReadValue s (loByte e) (Port.width p)).toNat = s.dev.mode.code.toNat := by
    rcases hport with ⟨h1e, hw⟩ | h1f
    · obtain rfl : e = 0x1E := BitVec.eq_of_toNat_eq h1e
      rw [ioReadValue, hw]
      exact hval.1
    · obtain rfl : e = 0x1F := BitVec.eq_of_toNat_eq h1f
      cases hw : Port.width p with
      | word => exact absurd (ho hw) (by decide)
      | byte => exact hval.2
  refine ((congrArg BitVec.toNat (Regs.get_set_same ..)).trans hcode).trans ?_
  cases s.dev.mode <;> rfl

/-- Settles O42: each port byte delivers no bit outside its mask. -/
theorem inputZeroBits : Obligations.InputZeroBits := by
  intro m raw word byte
  have low : ∀ a ∈ [0x08, 0x0C, 0x18, 0x1A, 0x1C, 0x20, 0x22, 0x24, 0x26, 0x28, (0x2C : Byte)],
      portMask a = 0 ∧ portMask (a + 1) = 0xFF := by decide
  have status : ∀ a ∈ [0x0A, 0x0E, (0x2A : Byte)], portMask a = 0 ∧ portMask (a + 1) = 0xC0 := by decide
  have even : ∀ a ∈ [0x08, 0x0A, 0x0C, 0x0E, 0x10, 0x18, 0x1A, 0x1C, 0x1E, 0x20, 0x22, 0x24, 0x26, 0x28, 0x2A, 0x2C,
      0xFC, (0xFE : Byte)], portMask a = 0 := by decide
  have statusByte : ∀ a ∈ [0x0B, 0x0F, (0x2B : Byte)], portMask a = 0xC0 := by decide
  have odd : ∀ a ∈ [0x09, 0x0D, 0x19, 0x1B, 0x1D, 0x21, 0x23, 0x25, 0x27, 0x29, (0x2D : Byte)],
      portMask a = 0xFF := by decide
  refine ⟨fun a => ?range, fun a ha => inValue_word_of_low m raw (low a ha).1 (low a ha).2, fun a ha => ?status,
    inValue_word_and m raw rfl rfl, inValue_word_and m raw rfl rfl, inValue_word_and m raw rfl rfl,
    inValue_word_and m raw rfl rfl, fun a ha => inValue_byte_of_mask_zero m raw (even a ha), fun a ha => ?statusByte,
    inValue_byte_and m raw rfl, inValue_byte_and m raw rfl, inValue_byte_and m raw rfl, inValue_byte_and m raw rfl,
    fun a ha => ⟨inValue_byte_of_mask_ones m raw (portMask_eq_ones ha), fun he => ?ones⟩,
    fun a ha => inValue_byte_of_mask_ones m raw (odd a ha)⟩
  case range => exact (toNat_zextByte _).trans_lt (BitVec.isLt _)
  case status =>
    obtain ⟨hh, hl⟩ := status a ha
    exact inValue_word_and m raw (by rw [hh]; rfl) (by rw [hl]; rfl)
  case statusByte => exact inValue_byte_and m raw (by rw [statusByte a ha]; rfl)
  case ones =>
    have heven := mod_two_of_setWidth_even he
    have hsucc := toNat_succ_of_even heven
    exact inValue_word_of_ones m raw (portMask_eq_ones ha) (portMask_eq_ones (by omega))

/-- Settles O43: one entry more, and a limit or a device register. -/
theorem outResult : Obligations.OutResult := by
  intro s rd p d e hp hd he v limitPort
  have hlow (h : e.toNat < 256) : (loByte e).toNat = e.toNat := (toNat_loByte e).trans (Nat.mod_eq_of_lt h)
  refine ⟨fun h => exec_out_of_refuse hp hd (portAddr_of_high he h),
    fun h hw ho => exec_out_of_refuse hp hd (portAddr_of_odd_word he h hw ho), fun hw hl => ?limit,
    fun h ho hl => ?done⟩
  case limit =>
    have h : e.toNat < 256 := by
      have := hl.2
      omega
    refine exec_out_of_ioWrite_refuse hp hd (portAddr_of_low he h fun hc => ?_) ?_
    · rw [hw] at hc
      cases hc
    · rw [hw]
      exact ioWrite_limit_byte (by rw [hlow h]; exact hl) s v
  case done =>
    obtain ⟨u, hu⟩ := exists_ioWrite (a := loByte e) (by rw [hlow h]; exact hl) s v
    obtain ⟨hregs, hmem, hflag, hreq, hrule, -, hout⟩ := ioWrite_frame hu
    obtain ⟨hlo, hhi, hdev⟩ := ioWrite_limits hu
    rw [hlow h] at hlo hhi hdev
    refine ⟨_, exec_out_of_ioWrite hp hd (portAddr_of_low he h ho) hu, hregs, fun n => congrArg (·.read n) hmem, hflag,
      hreq, hrule, rfl, ⟨_, hout, ioRecord_value (loByte e) _ v⟩, fun h4 => hlo ?_, fun h6 => hhi ?_, hdev⟩
    · omega
    · omega

/-- Settles O44: each register is written as a whole, by halves, or not at all. -/
theorem outputRegistersByPort : Obligations.OutputRegistersByPort := by
  intro d v
  have whole (set : Word → Devices) (l : Byte) := congrArg set (joinBytes_of_two_writes v l)
  have high (set : Word → Devices) (w : Word) := congrArg set (joinBytes_lo_lo v w)
  have low (set : Word → Devices) (w : Word) := congrArg set (joinBytes_hiByte_loByte w v)
  refine ⟨whole (fun w => { d with timer0Period := w }) _, whole (fun w => { d with timer0Control := w }) _,
    whole (fun w => { d with timer1Period := w }) _, whole (fun w => { d with timer1Control := w }) _,
    rfl, rfl, rfl, rfl, rfl, whole (fun w => { d with usdMemAddr := w }) _,
    whole (fun w => { d with usdBlkAddrH := w }) _, whole (fun w => { d with usdBlkAddrL := w }) _,
    rfl, rfl, rfl, rfl, rfl, rfl,
    whole (fun w => { d with consoleData := w }) _, fun a ha he => devWrite_word_of_unmapped ha he d v, ?halves,
    rfl, rfl, rfl, rfl, rfl, rfl, rfl, rfl, rfl, rfl, rfl, fun a ha => devWriteByte_of_even_byte ha d _,
    fun a ha => devWriteByte_of_unmapped ha d _⟩
  case halves =>
    intro hi lo
    exact ⟨high (fun w => { d with timer0Period := w }) _, low (fun w => { d with timer0Period := w }) _,
      high (fun w => { d with timer0Control := w }) _, low (fun w => { d with timer0Control := w }) _,
      high (fun w => { d with timer1Period := w }) _, low (fun w => { d with timer1Period := w }) _,
      high (fun w => { d with timer1Control := w }) _, low (fun w => { d with timer1Control := w }) _,
      high (fun w => { d with usdMemAddr := w }) _, low (fun w => { d with usdMemAddr := w }) _,
      high (fun w => { d with usdBlkAddrH := w }) _, low (fun w => { d with usdBlkAddrH := w }) _,
      high (fun w => { d with usdBlkAddrL := w }) _, low (fun w => { d with usdBlkAddrL := w }) _,
      high (fun w => { d with consoleData := w }) _, low (fun w => { d with consoleData := w }) _⟩

end Sys2Proof
end
